-- ==== Sys2Proof/Word.lean ====
section
/-! DEFINITION. The data widths of the machine: bytes, 16-bit words, 32-bit instruction words and register indexes
(spec/00_scope.md R3, spec/10_state.md R10). -/

namespace Sys2Proof

/-- One byte of memory. -/
abbrev Byte := BitVec 8

/-- A 16-bit value: a general register, an address field, an immediate (`XLEN` = 16). -/
abbrev Word := BitVec 16

/-- A 32-bit value: an instruction word (`ILEN` = 4 bytes) or the program counter (`PCLEN` = 32). -/
abbrev DWord := BitVec 32

/-- The index of a general register (`NREG` = 16). -/
abbrev RegId := Fin 16

end Sys2Proof
end

