-- ==== Sys2Proof/Config.lean ====
section
/-! DEFINITION. The implementation parameters of spec/00_scope.md R3: the numbers, each at the default the spec gives
(assumption 5), and the platform record of the parameters that stay parameters (assumption 4). -/

namespace Sys2Proof.Config

/-! ## Sizes (R3) -/

/-- `MEM_SIZE`: bytes of RAM. -/
abbrev memSize : Nat := 65536
/-- `QCAP`: capacity of the VDC instruction queue. -/
abbrev qCap : Nat := 32
/-- `ILEN`: bytes per instruction. -/
abbrev iLen : Nat := 4
/-- Cells of the pixel store `PIX`, 640 × 480 (10_state.md R25). -/
abbrev pixSize : Nat := 307200
/-- What a byte of RAM that nothing has written holds: the reset procedure zeroes all of RAM (R31, R230 step 2).
For `PIX` the spec leaves it open (assumption 7). -/
def unlistedByte : Byte := 0

/-! ## The memory map (20_memory.md R42) -/

/-- `BOOT_STATUS`: boot-status byte. -/
abbrev bootStatus : Nat := 0x0000
/-- `PRG_LOADING`: program-loading-flag byte. -/
abbrev prgLoading : Nat := 0x0001
/-- First byte of `BOOT_TEXT`. -/
abbrev bootText : Nat := 0x0002
/-- Bytes in `BOOT_TEXT`, 0x0002 to 0x00FB. -/
abbrev bootTextSize : Nat := 250
/-- `IO_IN`: 16-bit input cell. -/
abbrev ioIn : Nat := 0x00FC
/-- `IO_OUT`: 16-bit output cell. -/
abbrev ioOut : Nat := 0x00FE
/-- `RW_START`: first address a CPU store may write. -/
abbrev rwStart : Nat := 0x00FE
/-- `ROM_START`: first byte of boot ROM code and the threshold of absolute branch targets. -/
abbrev romStart : Nat := 0x0100
/-- Bytes in the boot ROM region, 0x0100 to 0x0FFF. -/
abbrev romSize : Nat := 3840
/-- `PRG_START`: first byte of the program region. -/
abbrev prgStart : Nat := 0x4000
/-- `FB_START`: first byte of the framebuffer. -/
abbrev fbStart : Nat := 0xF000
/-- `PC_RESET` = `ROM_START` − 4. -/
abbrev pcReset : DWord := 0x000000FC
/-- Bytes of a program image's header (70_reset_and_hazards.md R238). -/
abbrev headerSize : Nat := 16

/-! ## Opcode numbers (30_encoding.md R78) -/

abbrev opcHalt : Byte := 0x00
abbrev opcNop : Byte := 0x01
abbrev opcMov : Byte := 0x02
abbrev opcMovi : Byte := 0x03
abbrev opcAdd : Byte := 0x04
abbrev opcSub : Byte := 0x05
abbrev opcJmp : Byte := 0x06
abbrev opcCmp : Byte := 0x07
abbrev opcBreq : Byte := 0x08
abbrev opcBrneq : Byte := 0x09
abbrev opcStopc : Byte := 0x0A
abbrev opcRst : Byte := 0x0B
abbrev opcMovmr : Byte := 0x0C
abbrev opcDimd : Byte := 0x10
abbrev opcDiclr : Byte := 0x11
abbrev opcDiwtrt : Byte := 0x12
abbrev opcDisetxy : Byte := 0x13
abbrev opcDichar : Byte := 0x14
abbrev opcDiputpixel : Byte := 0x15

/-! ## Condition flags (10_state.md R16) -/

abbrev ccEq : Byte := 0x01
abbrev ccNeq : Byte := 0x02
abbrev ccZero : Byte := 0x04
/-- `CC_NZERO`: named by the source, set and tested by nothing (R17, 90_conflicts.md C10). -/
abbrev ccNzero : Byte := 0x08
abbrev ccGr : Byte := 0x10
abbrev ccLe : Byte := 0x20
abbrev ccUndef : Byte := 0x40

/-! ## Fault bits (60_exceptions.md R200) -/

abbrev excNone : Byte := 0x00
abbrev excInstr : Byte := 0x01
abbrev excMem : Byte := 0x02
abbrev excReg : Byte := 0x04
abbrev excPrg : Byte := 0x08
abbrev excDisplay : Byte := 0x10
abbrev excIoport : Byte := 0x20
abbrev excShutdown : Byte := 0x40

/-! ## Display modes (46_vdc.md R164) -/

abbrev modeText8x12 : Byte := 1
abbrev modeText80x25 : Byte := 2
abbrev modePixel640x480 : Byte := 3
/-- The blank of a text mode, the space character: PRESUMED, the one value the spec itself takes from general knowledge
(R164, assumption 18). -/
abbrev blankText : Byte := 0x20
/-- The blank of the pixel mode. -/
abbrev blankPixel : Byte := 0x00

end Sys2Proof.Config

namespace Sys2Proof

/-- The parameters of R3 that a platform supplies: the two images seeded at every reset, the magic constant of a program
image, whether mode 3 exists, the direction of `cmp`, and whether a 16-bit access is indivisible. No step changes them. -/
structure Platform where
  /-- `ROM_IMAGE`, seeded at `ROM_START`. -/
  romImage : List Byte
  /-- `BOOT_TEXT_IMAGE`, seeded at `BOOT_TEXT`. -/
  bootText : List Byte
  /-- `PRG_MAGIC`, read by the loader only. -/
  prgMagic : DWord
  /-- `HAS_PIXEL`: whether mode 3 exists. -/
  hasPixel : Bool
  /-- `CMP_SWAP`: false is `delta = source − destination`. -/
  cmpSwap : Bool
  /-- `ATOMIC16`: false makes every 16-bit access two byte accesses, low address first, with other agents' steps allowed
  between them (20_memory.md R52, assumption 6). -/
  atomic16 : Bool
  deriving DecidableEq, Repr

/-- What R230 requires of the images; a platform that breaks it is refused (93_implementation_defined.md U23). -/
def Platform.ok (p : Platform) : Bool :=
  decide (p.romImage.length ≤ Config.romSize) && decide (p.bootText.length ≤ Config.bootTextSize)

/-- The platform with R3's defaults; where R3 gives none (`ROM_IMAGE`, `PRG_MAGIC`) the values of assumption 4. -/
def Platform.default : Platform :=
  { romImage := [], bootText := [], prgMagic := 0, hasPixel := true, cmpSwap := false, atomic16 := true }

end Sys2Proof
end

