-- ==== Sys2Proof/Syntax.lean ====
section
/-! DEFINITION. The instructions: one constructor per row of spec/opcode_table.json, with the fields that
spec/30_encoding.md R73 gives its format. Ignored bits are not part of an instruction. -/

namespace Sys2Proof

/-- The four mode flags of a format-A word, `ir[15:12]` (30_encoding.md R71, R72). -/
structure ModeFlags where
  /-- destination-is-register, bit 12 -/
  dr : Bool
  /-- destination-is-memory, bit 13 -/
  dm : Bool
  /-- source-is-register, bit 14 -/
  sr : Bool
  /-- source-is-memory, bit 15 -/
  sm : Bool
  deriving DecidableEq, Repr

/-- The nineteen instructions. `rd` is `ir[11:8]`, `opnd` is `ir[31:16]`. -/
inductive Instr where
  | halt
  | nop
  | mov (m : ModeFlags) (rd : RegId) (opnd : Word)
  | movi (m : ModeFlags) (rd : RegId) (opnd : Word)
  | add (m : ModeFlags) (rd : RegId) (opnd : Word)
  | sub (m : ModeFlags) (rd : RegId) (opnd : Word)
  | jmp (target : Word)
  | cmp (m : ModeFlags) (rd : RegId) (opnd : Word)
  | breq (target : Word)
  | brneq (target : Word)
  | stopc (rd : RegId)
  | rst
  | movmr (rd : RegId) (rs : Word)
  | dimd (sr sm : Bool) (opnd : Word)
  | diclr
  | diwtrt
  | disetxy (rx : RegId) (ry : Word)
  | dichar (sr sm : Bool) (opnd : Word)
  | diputpixel (sr sm : Bool) (opnd : Word)
  deriving DecidableEq, Repr

/-- The six display-class instructions (45_display_forwarding.md R150). -/
def Instr.isDisplay : Instr → Bool
  | .dimd _ _ _ => true
  | .diclr => true
  | .diwtrt => true
  | .disetxy _ _ => true
  | .dichar _ _ _ => true
  | .diputpixel _ _ _ => true
  | .halt => false
  | .nop => false
  | .mov _ _ _ => false
  | .movi _ _ _ => false
  | .add _ _ _ => false
  | .sub _ _ _ => false
  | .jmp _ => false
  | .cmp _ _ _ => false
  | .breq _ => false
  | .brneq _ => false
  | .stopc _ => false
  | .rst => false
  | .movmr _ _ => false

end Sys2Proof
end

