-- ==== Sys2Proof/WellFormed.lean ====
section
/-! DEFINITION. Which instructions are legal encodings: the checks of spec/30_encoding.md R80, format by format. An
ill-formed instruction still runs (it takes the fault R80 names), so nothing in the machine asks for well-formedness. -/

namespace Sys2Proof

/-- Format A (R75, R80): exactly one destination flag; a register source has an index of at most 15. -/
def ModeFlags.wellFormed (m : ModeFlags) (opnd : Word) : Bool :=
  (m.dr != m.dm) && (!(m.dr && m.sr) || decide (opnd.toNat ≤ 15))

/-- Format B (R76, R80): not between the register indexes and `ROM_START`. -/
def targetWellFormed (t : Word) : Bool :=
  decide (t.toNat ≤ 15) || decide (Config.romStart ≤ t.toNat)

/-- The register index of formats D and VX (R80). -/
def indexWellFormed (r : Word) : Bool := decide (r.toNat ≤ 15)

/-- The register source of format VS (R80, R166). -/
def sourceWellFormed (sr : Bool) (opnd : Word) : Bool := !sr || decide (opnd.toNat ≤ 15)

/-- An immediate mode byte of `dimd` is one of 1, 2, 3 (R80); in the other forms the byte is known only when the VDC runs. -/
def modeByteWellFormed (sr sm : Bool) (opnd : Word) : Bool :=
  sr || sm || (opnd.toNat % 256 == 1) || (opnd.toNat % 256 == 2) || (opnd.toNat % 256 == 3)

/-- The legal encodings. -/
def Instr.wellFormed : Instr → Bool
  | .halt => true
  | .nop => true
  | .mov m _ v => m.wellFormed v
  | .movi m _ v => m.wellFormed v
  | .add m _ v => m.wellFormed v
  | .sub m _ v => m.wellFormed v
  | .jmp t => targetWellFormed t
  | .cmp m _ v => m.wellFormed v
  | .breq t => targetWellFormed t
  | .brneq t => targetWellFormed t
  | .stopc _ => true
  | .rst => true
  | .movmr _ rs => indexWellFormed rs
  | .dimd sr sm v => sourceWellFormed sr v && modeByteWellFormed sr sm v
  | .diclr => true
  | .diwtrt => true
  | .disetxy _ ry => indexWellFormed ry
  | .dichar sr _ v => sourceWellFormed sr v
  | .diputpixel sr _ v => sourceWellFormed sr v

end Sys2Proof
end

