-- ==== Sys2Proof/Decode.lean ====
section
/-! DEFINITION. The decoder and the encoder, from spec/30_encoding.md R70 to R79 and R86. Decoding is total: a word whose
opcode is not one of the nineteen is rejected by name, and no other word is. -/

namespace Sys2Proof

/-! ## Fields of a word (R71, R73) -/

/-- `ir[7:0]`. -/
def wordOpc (w : DWord) : Byte := w.extractLsb' 0 8
/-- `ir[11:8]`. -/
def wordRd (w : DWord) : RegId := (w.extractLsb' 8 4).toFin
/-- `ir[12]`, destination-is-register. -/
def wordDR (w : DWord) : Bool := w.getLsbD 12
/-- `ir[13]`, destination-is-memory. -/
def wordDM (w : DWord) : Bool := w.getLsbD 13
/-- `ir[14]`, source-is-register. -/
def wordSR (w : DWord) : Bool := w.getLsbD 14
/-- `ir[15]`, source-is-memory. -/
def wordSM (w : DWord) : Bool := w.getLsbD 15
/-- `ir[31:16]`. -/
def wordOpnd (w : DWord) : Word := w.extractLsb' 16 16
/-- The four flags of a format-A word. -/
def wordFlags (w : DWord) : ModeFlags := { dr := wordDR w, dm := wordDM w, sr := wordSR w, sm := wordSM w }

/-! ## The decoder -/

/-- Why a word is no instruction. -/
inductive DecodeError where
  /-- The opcode byte is not in the table of R78 (R79). -/
  | unrecognizedOpcode (opc : Byte)
  /-- Fewer than the four bytes of an instruction (R70); the machine never asks this, its fetch reads four. -/
  | truncated
  deriving DecidableEq, Repr

/-- Nothing but the opcode byte chooses the instruction (40_cpu_cycle.md R94). -/
def decode (w : DWord) : Except DecodeError Instr :=
  let opc := wordOpc w
  if opc = Config.opcHalt then .ok .halt
  else if opc = Config.opcNop then .ok .nop
  else if opc = Config.opcMov then .ok (.mov (wordFlags w) (wordRd w) (wordOpnd w))
  else if opc = Config.opcMovi then .ok (.movi (wordFlags w) (wordRd w) (wordOpnd w))
  else if opc = Config.opcAdd then .ok (.add (wordFlags w) (wordRd w) (wordOpnd w))
  else if opc = Config.opcSub then .ok (.sub (wordFlags w) (wordRd w) (wordOpnd w))
  else if opc = Config.opcJmp then .ok (.jmp (wordOpnd w))
  else if opc = Config.opcCmp then .ok (.cmp (wordFlags w) (wordRd w) (wordOpnd w))
  else if opc = Config.opcBreq then .ok (.breq (wordOpnd w))
  else if opc = Config.opcBrneq then .ok (.brneq (wordOpnd w))
  else if opc = Config.opcStopc then .ok (.stopc (wordRd w))
  else if opc = Config.opcRst then .ok .rst
  else if opc = Config.opcMovmr then .ok (.movmr (wordRd w) (wordOpnd w))
  else if opc = Config.opcDimd then .ok (.dimd (wordSR w) (wordSM w) (wordOpnd w))
  else if opc = Config.opcDiclr then .ok .diclr
  else if opc = Config.opcDiwtrt then .ok .diwtrt
  else if opc = Config.opcDisetxy then .ok (.disetxy (wordRd w) (wordOpnd w))
  else if opc = Config.opcDichar then .ok (.dichar (wordSR w) (wordSM w) (wordOpnd w))
  else if opc = Config.opcDiputpixel then .ok (.diputpixel (wordSR w) (wordSM w) (wordOpnd w))
  else .error (.unrecognizedOpcode opc)

/-- The word that four bytes of memory hold, the first at the lowest address (little-endian, 20_memory.md R48). -/
def wordOfBytes (b0 b1 b2 b3 : Byte) : DWord := b3 ++ b2 ++ b1 ++ b0

/-- The bytes of a word in memory order (R48). -/
def bytesOfWord (w : DWord) : List Byte :=
  [w.extractLsb' 0 8, w.extractLsb' 8 8, w.extractLsb' 16 8, w.extractLsb' 24 8]

/-- Decoding from the four bytes in memory order. -/
def decodeBytes : List Byte → Except DecodeError Instr
  | b0 :: b1 :: b2 :: b3 :: _ => decode (wordOfBytes b0 b1 b2 b3)
  | _ => .error .truncated

/-! ## The encoder (R73, R86: ignored bits are written 0) -/

/-- A word from its fields. -/
def packWord (opnd : Word) (sm sr dm dr : Bool) (rd : RegId) (opc : Byte) : DWord :=
  opnd ++ BitVec.ofBool sm ++ BitVec.ofBool sr ++ BitVec.ofBool dm ++ BitVec.ofBool dr ++ BitVec.ofFin (w := 4) rd ++ opc

/-- A format-A word. -/
def packA (m : ModeFlags) (rd : RegId) (opnd : Word) (opc : Byte) : DWord :=
  packWord opnd m.sm m.sr m.dm m.dr rd opc

/-- The word of an instruction. -/
def encode : Instr → DWord
  | .halt => packWord 0 false false false false 0 Config.opcHalt
  | .nop => packWord 0 false false false false 0 Config.opcNop
  | .mov m rd v => packA m rd v Config.opcMov
  | .movi m rd v => packA m rd v Config.opcMovi
  | .add m rd v => packA m rd v Config.opcAdd
  | .sub m rd v => packA m rd v Config.opcSub
  | .jmp t => packWord t false false false false 0 Config.opcJmp
  | .cmp m rd v => packA m rd v Config.opcCmp
  | .breq t => packWord t false false false false 0 Config.opcBreq
  | .brneq t => packWord t false false false false 0 Config.opcBrneq
  | .stopc rd => packWord 0 false false false false rd Config.opcStopc
  | .rst => packWord 0 false false false false 0 Config.opcRst
  | .movmr rd rs => packWord rs false false false false rd Config.opcMovmr
  | .dimd sr sm v => packWord v sm sr false false 0 Config.opcDimd
  | .diclr => packWord 0 false false false false 0 Config.opcDiclr
  | .diwtrt => packWord 0 false false false false 0 Config.opcDiwtrt
  | .disetxy rx ry => packWord ry false false false false rx Config.opcDisetxy
  | .dichar sr sm v => packWord v sm sr false false 0 Config.opcDichar
  | .diputpixel sr sm v => packWord v sm sr false false 0 Config.opcDiputpixel

/-- The bits of an instruction's word that its format does not ignore (R73). -/
def usedBits : Instr → DWord
  | .halt => 0x000000FF
  | .nop => 0x000000FF
  | .mov _ _ _ => 0xFFFFFFFF
  | .movi _ _ _ => 0xFFFFFFFF
  | .add _ _ _ => 0xFFFFFFFF
  | .sub _ _ _ => 0xFFFFFFFF
  | .jmp _ => 0xFFFF00FF
  | .cmp _ _ _ => 0xFFFFFFFF
  | .breq _ => 0xFFFF00FF
  | .brneq _ => 0xFFFF00FF
  | .stopc _ => 0x00000FFF
  | .rst => 0x000000FF
  | .movmr _ _ => 0xFFFF0FFF
  | .dimd _ _ _ => 0xFFFFC0FF
  | .diclr => 0x000000FF
  | .diwtrt => 0x000000FF
  | .disetxy _ _ => 0xFFFF0FFF
  | .dichar _ _ _ => 0xFFFFC0FF
  | .diputpixel _ _ _ => 0xFFFFC0FF

/-! ## The host's question -/

/-- The bits of a table row's word, laid out as bytes in memory order. Bits above `nbits` are 0. -/
def tableWordBytes (nbits w : Nat) : List Byte := bytesOfWord (BitVec.ofNat 32 (w % 2 ^ nbits))

/-- The instruction the decoder reads from a row of spec/opcode_table.json. -/
def decodeTableWord (nbits w : Nat) : Option Instr := (decodeBytes (tableWordBytes nbits w)).toOption

end Sys2Proof
end

