-- ==== Sys2Proof/Machine/Memory.lean ====
section
/-! DEFINITION. A byte store as a list of (address, byte) pairs in one canonical form: addresses strictly rising, no entry
equal to what an unlisted address reads as. `RAM` (spec/10_state.md R24) and `PIX` (R25) are both such stores. Everything
that changes a store goes through `blit`. -/

namespace Sys2Proof.Machine

/-- The byte at an address; an address that is not listed reads as `Config.unlistedByte`. -/
def readCell : List Host.Cell → Nat → Byte
  | [], _ => Config.unlistedByte
  | (b, v) :: t, a => if b = a then v else readCell t a

/-- The entries that store `vs` from address `base` on: none for a byte equal to what an unlisted address reads as. -/
def cellsFrom : Nat → List Byte → List Host.Cell
  | _, [] => []
  | base, v :: vs => if v = Config.unlistedByte then cellsFrom (base + 1) vs else (base, v) :: cellsFrom (base + 1) vs

/-- The store with `vs` at `base`, `base + 1`, … and every other byte as it was (20_memory.md R47: "No other byte changes"). -/
def blit (m : List Host.Cell) (base : Nat) (vs : List Byte) : List Host.Cell :=
  m.filter (fun c => decide (c.1 < base)) ++ cellsFrom base vs ++
    m.filter (fun c => decide (base + vs.length ≤ c.1))

/-- `n` bytes from `base` on set to `v`: `blit` of `n` copies of `v`, which lists none of them where `v` is what an
unlisted byte reads as. -/
def fillCells (m : List Host.Cell) (base n : Nat) (v : Byte) : List Host.Cell :=
  m.filter (fun c => decide (c.1 < base)) ++
    (if v = Config.unlistedByte then [] else cellsFrom base (List.replicate n v)) ++
    m.filter (fun c => decide (base + n ≤ c.1))

/-- The canonical form, of a store of `bound` bytes whose entries start at `lo` or above. -/
def Memory.wfFrom (bound : Nat) : Nat → List Host.Cell → Bool
  | _, [] => true
  | lo, (a, v) :: t => decide (lo ≤ a) && decide (a < bound) && decide (v ≠ Config.unlistedByte) && wfFrom bound (a + 1) t

/-- The canonical form: addresses strictly rising and below `bound`, no entry equal to an unlisted byte. -/
def Memory.wf (bound : Nat) (m : List Host.Cell) : Bool := Memory.wfFrom bound 0 m

end Sys2Proof.Machine
end

