-- ==== Sys2Proof/Machine/State.lean ====
section
/-! DEFINITION. The state of the machine as plain data (spec/10_state.md R10 to R31), the reasons a step can stop, the turns
a schedule is made of, and the state after reset. -/

namespace Sys2Proof.Machine

/-- The fault categories of 60_exceptions.md R200. A fault of the hardware is a bit in a mask; it never stops the model. -/
inductive ExcKind where
  | instr | mem | reg | prg | display | ioport | shutdown
  deriving DecidableEq, Repr

/-- The display modes of 46_vdc.md R164; `off` is the disabled adapter, `vmode` = 0. -/
inductive VMode where
  | off | text8x12 | text80x25 | pixel
  deriving DecidableEq, Repr

/-- Where a cell of a frame lives (46_vdc.md R164): byte `i` of the framebuffer in RAM, or byte `i` of `PIX`. -/
inductive FbCell where
  | text (i : Nat)
  | pixel (i : Nat)
  deriving DecidableEq, Repr

/-- A frame emitted to the DisplaySink: the mode in force and its cells in row-major order (46_vdc.md R181). -/
structure Frame where
  mode : VMode
  cells : List Byte
  deriving DecidableEq, Repr

/-- What the CPU does with a 16-bit value it loads: `movi`'s register destination, `cmp`'s source against a register, `cmp`'s
destination value against a source (20_memory.md R51). -/
inductive LoadUse where
  | register (rd : RegId)
  | compareSource (rd : RegId)
  | compareDest (source : Word)
  deriving DecidableEq, Repr

/-- A 16-bit access of the CPU at address `a` of which only the byte at `a` has been accessed (R52 with `ATOMIC16` false). -/
inductive HalfAccess where
  /-- The low byte is read; the byte at `a` + 1 is still to be read. -/
  | load (a : Word) (low : Byte) (use : LoadUse)
  /-- The low byte is stored; `high` is still to be stored at `a` + 1. -/
  | store (a : Word) (high : Byte)
  deriving DecidableEq, Repr

/-- One step of one agent (00_scope.md R5), with the input from outside the block that the step takes, if it takes one.
A turn whose agent is not enabled is consumed and changes nothing else (assumption 2). -/
inductive Turn where
  /-- One CPU cycle (40_cpu_cycle.md R90); with `ATOMIC16` false, a cycle up to the first byte of its 16-bit access, or from
  the second byte on (20_memory.md R52). -/
  | cpu
  /-- One VDC step (46_vdc.md R162). -/
  | vdc
  /-- RENDER starts a walk (R180). -/
  | renderStart
  /-- RENDER reads one cell of the walk in flight (R181); a number past the cells names none (20_memory.md R40). -/
  | renderSample (c : FbCell)
  /-- RENDER finishes the walk and emits the frame (R181). -/
  | renderFinish
  /-- IOIN (47_ioport.md R192): the stream's next value, or `none` when the stream is broken. -/
  | ioin (value : Option Nat)
  /-- IOIN, with `ATOMIC16` false: the second byte of a value whose first byte is stored (R52, assumption 6). -/
  | ioinFinish
  /-- IOOUT (R193): `false` when the stream is broken. -/
  | ioout (streamOk : Bool)
  /-- IOOUT, with `ATOMIC16` false: the second byte of the value, and the hand-over (R52, assumption 6). -/
  | iooutFinish (streamOk : Bool)
  /-- HOST: the release of the reset barrier (70_reset_and_hazards.md R234). -/
  | release
  /-- HOST: what follows the end of a run (R236). -/
  | endOfRun
  /-- HOST: the shutdown signal (60_exceptions.md R206). -/
  | shutdown
  /-- HOST: the loader is given a program image (R238). -/
  | loadOpen (image : List Byte)
  /-- HOST: the direct-load variant, which skips the header check (R238). -/
  | loadDirect (image : List Byte)
  /-- HOST: the loader copies one of its remaining bytes, the `k`-th (R238: "in any order, in any number of steps"). -/
  | loadCopy (k : Nat)
  /-- HOST: the loader sets the loading-complete flag (R238). -/
  | loadDone
  /-- HOST: new values of the control flags it owns (10_state.md R22). -/
  | control (debugEn : Bool) (clkDiv : Nat)
  /-- HOST: a value for the `BOOT_STATUS` byte (20_memory.md R42, 70_reset_and_hazards.md R238). -/
  | bootStatus (v : Byte)
  deriving DecidableEq, Repr

/-- Why a step stops for good. -/
inductive Fault where
  /-- Raised by `endOfRunTurn`: the run has ended with no fault or with a shutdown request, so the HOST stops for good and
  there is "no further step of the block" (70_reset_and_hazards.md R236). Safe: the block has no step here. -/
  | finalStop
  /-- Raised by `vdcExec`: the head of the queue is no display-class word, which 46_vdc.md R162 says cannot be (only the
  CPU's forwarding pushes). Safe: no run from reset reaches it. -/
  | foreignQueueWord
  deriving DecidableEq, Repr

/-- Why a step has no meaning. -/
inductive Refusal where
  /-- An instruction that has no meaning in the model. Safe. No arm of `exec` answers with it. -/
  | notModelled (mnemonic : String)
  /-- Raised by `endOfRunTurn` before a soft reboot: an image parameter is longer than its region, a platform that
  93_implementation_defined.md U23 refuses. Safe. -/
  | badPlatform
  deriving DecidableEq, Repr

/-- The state: what spec/10_state.md names, the platform's parameters, the ports and work in flight, and the schedule. -/
structure State where
  /-- `x[0]` to `x[15]` (R10). -/
  regs : Vector Word 16
  /-- The program counter (R12 to R14). -/
  pc : DWord
  /-- The condition register (R15). -/
  cr : Byte
  /-- The instruction register (R23). -/
  ir : DWord
  /-- The aggregated exception register (R18). -/
  exc : Byte
  /-- The CPU's local fault field (R19). -/
  cpuExc : Byte
  /-- The VDC's fault field (R20). -/
  vdcExc : Byte
  /-- The fault field of IOIN and IOOUT (R20). -/
  ioExc : Byte
  /-- The HOST's fault field (R20). -/
  extExc : Byte
  /-- The panic/halt flag (R21). -/
  panic : Bool
  /-- The reset barrier (R21). -/
  resetHold : Bool
  /-- The debug-enable flag (R22). -/
  debugEn : Bool
  /-- The clock-rate divisor (R22). -/
  clkDiv : Nat
  /-- `RAM` (R24, R29). -/
  mem : List Host.Cell
  /-- `PIX` (R25). -/
  pix : List Host.Cell
  /-- The display mode (R26). -/
  vmode : VMode
  /-- The cursor's column (R26). -/
  cx : Word
  /-- The cursor's row (R26). -/
  cy : Word
  /-- Whether a render walk is in flight (R26). -/
  retrace : Bool
  /-- The VDC instruction queue, head first (R27). -/
  q : List DWord
  /-- The CPU's 16-bit access in progress, with `ATOMIC16` false (20_memory.md R52; assumption 6). -/
  cpuAccess : Option HalfAccess
  /-- IOIN's byte still to be stored at `IO_IN` + 1, with `ATOMIC16` false (R52; assumption 6). -/
  ioinHigh : Option Byte
  /-- The byte IOOUT has read at `IO_OUT`, its read of the next still to come, with `ATOMIC16` false (R52; assumption 6). -/
  iooutLow : Option Byte
  /-- The platform's parameters (00_scope.md R3). -/
  platform : Platform
  /-- The values handed to the HOST's output stream, oldest first (47_ioport.md R193; assumption 16). -/
  outStream : List Word
  /-- The frames emitted to the DisplaySink, oldest first (46_vdc.md R181; assumption 16). -/
  sink : List Frame
  /-- The cells the walk in flight has read, latest first (46_vdc.md R181; assumption 15). -/
  samples : List (FbCell × Byte)
  /-- The bytes the loader has still to copy, while a load is in progress (70_reset_and_hazards.md R238; assumption 9). -/
  load : Option (List Host.Cell)
  /-- The turns to come (00_scope.md R5; assumption 1). The model's own field. -/
  sched : List Turn
  deriving DecidableEq, Repr

/-- The machine right after the reset procedure and before the release (10_state.md R31), on the default platform.
Assumptions 4, 7, 8 and 16 name the values R31 leaves open. -/
def State.reset : State where
  regs := Vector.replicate 16 0
  pc := Config.pcReset
  cr := Config.ccUndef
  ir := 0
  exc := Config.excNone
  cpuExc := Config.excNone
  vdcExc := Config.excNone
  ioExc := Config.excNone
  extExc := Config.excNone
  panic := false
  resetHold := true
  debugEn := false
  clkDiv := 0
  mem := []
  pix := []
  vmode := .off
  cx := 0
  cy := 0
  retrace := false
  q := []
  cpuAccess := none
  ioinHigh := none
  iooutLow := none
  platform := Platform.default
  outStream := []
  sink := []
  samples := []
  load := none
  sched := []

end Sys2Proof.Machine
end

