-- ==== Sys2Proof/Machine/Ops.lean ====
section
/-! DEFINITION. The named operations over registers, memory, faults and reset. -/

namespace Sys2Proof.Machine

/-- What a step, an agent's turn or an instruction answers. -/
abbrev Result := Host.Outcome State Fault Refusal

/-- The two operand widths of `Resolve` (spec/00_scope.md section 5): 8 and 16 bits. -/
inductive Width where
  | byte | int
  deriving DecidableEq, Repr

/-- `size(w)`: bytes moved. -/
def Width.size : Width → Nat
  | .byte => 1
  | .int => 2

/-- `v & mask(w)`. -/
def Width.mask : Width → Word → Word
  | .byte, v => v &&& 0xFF
  | .int, v => v

/-! ## Registers (10_state.md R10, R11) -/

/-- `x[r]`. -/
def State.reg (s : State) (r : RegId) : Word := s.regs[r]

/-- `x[r] <- v`. -/
def State.setReg (s : State) (r : RegId) (v : Word) : State := { s with regs := s.regs.set r v }

/-- A register named by a 16-bit field, valid only when the field is at most 15 (R11). -/
def regIndex (v : Word) : Option RegId := if h : v.toNat < 16 then some ⟨v.toNat, h⟩ else none

/-! ## Memory (20_memory.md R45 to R50) -/

/-- `RAM[a]`. -/
def State.readByte (s : State) (a : Nat) : Byte := readCell s.mem a

/-- `Admit(a, n)` (R45). -/
def admitted (a n : Nat) : Bool := decide (a + n ≤ Config.memSize)

/-- `MemRead(a, 2)` (R46): little-endian. -/
def State.readWord (s : State) (a : Nat) : Word := s.readByte (a + 1) ++ s.readByte a

/-- `MemRead(a, 4)` (R46, R48): little-endian. -/
def State.readDWord (s : State) (a : Nat) : DWord :=
  wordOfBytes (s.readByte a) (s.readByte (a + 1)) (s.readByte (a + 2)) (s.readByte (a + 3))

/-- `MemRead(a, size(w))` as a 16-bit value. -/
def State.memRead (s : State) (w : Width) (a : Nat) : Word :=
  match w with
  | .byte => (s.readByte a).setWidth 16
  | .int => s.readWord a

/-- The bytes `MemWrite(a, size(w), v)` stores, lowest address first (R47). -/
def storedBytes (w : Width) (v : Word) : List Byte :=
  match w with
  | .byte => [v.extractLsb' 0 8]
  | .int => [v.extractLsb' 0 8, v.extractLsb' 8 8]

/-- `vs` stored from address `a` on. -/
def State.writeBytes (s : State) (a : Nat) (vs : List Byte) : State := { s with mem := blit s.mem a vs }

/-- `MemWrite(a, size(w), v)` (R47). -/
def State.memWrite (s : State) (w : Width) (a : Nat) (v : Word) : State := s.writeBytes a (storedBytes w v)

/-! ## Taking a fault (00_scope.md R4, 60_exceptions.md R200, R208) -/

/-- `EXC_*` (R200). -/
def ExcKind.bit : ExcKind → Byte
  | .instr => Config.excInstr
  | .mem => Config.excMem
  | .reg => Config.excReg
  | .prg => Config.excPrg
  | .display => Config.excDisplay
  | .ioport => Config.excIoport
  | .shutdown => Config.excShutdown

/-- `raise F` in a CPU rule (R4): the bit in `cpu_exc` and nothing else; the cycle goes on at its aggregation. -/
def State.raise (s : State) (f : ExcKind) : State := { s with cpuExc := s.cpuExc ||| f.bit }

/-- `raise DisplayFault` in a VDC rule (R4, 46_vdc.md R176). -/
def State.raiseVdc (s : State) : State := { s with vdcExc := s.vdcExc ||| ExcKind.display.bit }

/-- IOIN's and IOOUT's fault (47_ioport.md R192, R193). -/
def State.raiseIo (s : State) : State := { s with ioExc := s.ioExc ||| ExcKind.ioport.bit }

/-- The HOST's faults (60_exceptions.md R206). -/
def State.raiseExt (s : State) (f : ExcKind) : State := { s with extExc := s.extExc ||| f.bit }

/-- All fault bits present at step 6 of the cycle, ORed together (40_cpu_cycle.md R95, 60_exceptions.md R207). -/
def State.faultsPresent (s : State) : Byte := s.exc ||| s.cpuExc ||| s.vdcExc ||| s.ioExc ||| s.extExc

/-- Taking the faults, steps 6 and 7 of the cycle (40_cpu_cycle.md R90, R95; trap entry, 60_exceptions.md R208): the bits
enter `exc`, and any bit there raises `panic`. Nothing is saved and control goes nowhere. -/
def State.aggregate (s : State) : State :=
  { s with exc := s.faultsPresent, panic := s.panic || decide (s.faultsPresent ≠ 0) }

/-- Whether the block's agents may step: not held at the reset barrier and not stopped (40_cpu_cycle.md R98, 10_state.md R21). -/
def State.running (s : State) : Bool := !s.resetHold && !s.panic

/-! ## What leaves a fault: reset (60_exceptions.md R210, 70_reset_and_hazards.md R230) -/

/-- All of RAM after the reset procedure, steps 2 and 3 of R230: zero but for the two images. -/
def seededMemory (p : Platform) : List Host.Cell :=
  blit (blit [] Config.romStart p.romImage) Config.bootText p.bootText

/-- The reset procedure (R230; the values are 10_state.md R31). `PIX`, `debug_en`, `clk_div`, the platform and the schedule
are not its concern and stay; the HOST's ports are opened anew (step 7) and a load in progress is dropped. -/
def State.resetProcedure (s : State) : State :=
  { State.reset with
    mem := seededMemory s.platform
    pix := s.pix
    debugEn := s.debugEn
    clkDiv := s.clkDiv
    platform := s.platform
    sched := s.sched }

/-! ## The phase (10_state.md R30) -/

/-- The CPU's phases; `halted` is the panic state with no fault, `faulted` the one with. -/
inductive Phase where
  | reset | running | faulted | halted
  deriving DecidableEq, Repr

/-- The phase, a function of `reset_hold`, `panic` and `exc`. -/
def State.phase (s : State) : Phase :=
  if s.resetHold then .reset
  else if !s.panic then .running
  else if s.exc ≠ 0 then .faulted
  else .halted

end Sys2Proof.Machine
end

