-- ==== Sys2Proof/Machine/Flags.lean ====
section
/-! DEFINITION. The condition register's values: what `cmp` sets (spec/43_arithmetic_compare.md R134) and what the
conditional branches test (44_control_transfer.md R144, R145). No other instruction touches a flag (10_state.md R17). -/

namespace Sys2Proof.Machine

/-- The difference `cmp` takes, in the integers: source − destination value, or the other way round under `CMP_SWAP`. -/
def cmpDelta (swap : Bool) (v dv : Word) : Int :=
  if swap then (dv.toNat : Int) - v.toNat else (v.toNat : Int) - dv.toNat

/-- The flags of a difference. -/
def flagsOfDelta (delta : Int) : Byte :=
  if delta = 0 then Config.ccEq ||| Config.ccZero
  else if 0 < delta then Config.ccGr ||| Config.ccNeq
  else Config.ccLe ||| Config.ccNeq

/-- `(cr & flag) != 0`. -/
def State.hasFlag (s : State) (flag : Byte) : Bool := decide (s.cr &&& flag ≠ 0)

/-- `cr <- v`. -/
def State.setCr (s : State) (v : Byte) : State := { s with cr := v }

/-- The flags of a comparison of a source value with a destination value, into `cr`. -/
def State.setCompare (s : State) (v dv : Word) : State := s.setCr (flagsOfDelta (cmpDelta s.platform.cmpSwap v dv))

end Sys2Proof.Machine
end

