-- ==== Sys2Proof/Machine/Operands.lean ====
section
/-! DEFINITION. The operand forms: `Resolve` of the CPU (spec/40_cpu_cycle.md R96), `Target` of the branches
(44_control_transfer.md R140) and `SrcByte` of the VDC (46_vdc.md R166). Each returns a value or the fault it raises, and
writes nothing. -/

namespace Sys2Proof.Machine

/-- A destination that `Resolve` returns. -/
inductive Dest where
  | reg (r : RegId)
  | mem (a : Word)
  deriving DecidableEq, Repr

/-- The source value of register-destination mode before masking: `SR` wins over `SM`, and neither means an immediate. -/
def resolveSource (w : Width) (m : ModeFlags) (opnd : Word) (s : State) : Except ExcKind Word :=
  if m.sr then
    match regIndex opnd with
    | some r => .ok (s.reg r)
    | none => .error .reg
  else if m.sm then
    if admitted opnd.toNat w.size then .ok (s.memRead w opnd.toNat) else .error .mem
  else .ok opnd

/-- Whether memory-destination mode accepts an address: writable and wholly inside memory (20_memory.md R43, R45). -/
def storeAdmitted (w : Width) (a : Word) : Bool := decide (Config.rwStart ≤ a.toNat) && admitted a.toNat w.size

/-- `Resolve(ir, w)` (R96): the destination and the masked source value, or the one fault of the first check that fails. -/
def resolve (w : Width) (m : ModeFlags) (rd : RegId) (opnd : Word) (s : State) : Except ExcKind (Dest × Word) :=
  if m.dr = m.dm then .error .instr
  else if m.dr then
    match resolveSource w m opnd s with
    | .ok v => .ok (.reg rd, w.mask v)
    | .error f => .error f
  else if storeAdmitted w opnd then .ok (.mem opnd, w.mask (s.reg rd))
  else .error .mem

/-- An instruction over its resolved operand: the raise of `Resolve`, or `k` of what it returned. -/
def withResolved (w : Width) (m : ModeFlags) (rd : RegId) (opnd : Word) (s : State) (k : Dest → Word → State) : State :=
  match resolve w m rd opnd s with
  | .ok (d, v) => k d v
  | .error f => s.raise f

/-- The value of a destination: the register, or the bytes in memory. -/
def State.readDest (s : State) (w : Width) : Dest → Word
  | .reg r => s.reg r
  | .mem a => s.memRead w a.toNat

/-- A value stored to a destination: the whole register, or `size(w)` bytes in memory. -/
def State.writeDest (s : State) (w : Width) (d : Dest) (v : Word) : State :=
  match d with
  | .reg r => s.setReg r v
  | .mem a => s.memWrite w a.toNat v

/-- `Target(ir)` (R140). -/
def resolveTarget (t : Word) (s : State) : Except ExcKind Word :=
  if Config.romStart ≤ t.toNat then .ok t
  else
    match regIndex t with
    | some r => .ok (s.reg r)
    | none => .error .instr

/-- The value of `pc` that makes the next fetch land on `t`: (t − 4) mod 2^32 (R142, 10_state.md R13, R14). -/
def branchPc (t : Word) : DWord := t.setWidth 32 - 4

/-- `SrcByte(w)` (R166): the CPU's register or RAM as it is now. `none` is the raise of DisplayFault. -/
def srcByte (sr sm : Bool) (opnd : Word) (s : State) : Option Byte :=
  if sr then
    match regIndex opnd with
    | some r => some ((s.reg r).extractLsb' 0 8)
    | none => none
  else if sm then some (s.readByte opnd.toNat)
  else some (opnd.extractLsb' 0 8)

end Sys2Proof.Machine
end

