-- ==== Sys2Proof/Machine/Access.lean ====
section
/-! DEFINITION. The CPU's 16-bit data accesses (spec/20_memory.md R51): one indivisible access, or with `ATOMIC16` false two
byte accesses, low address first, with other agents' steps allowed between them (R52, assumption 6). Fetch is no 16-bit
access and stays whole. -/

namespace Sys2Proof.Machine

/-- Whether a register-destination word reads its source from memory: `SM` without `SR` (30_encoding.md R75). -/
def sourceInMemory (m : ModeFlags) : Bool := !m.sr && m.sm

/-- What a loaded 16-bit value is used for. -/
def State.useLoaded (s : State) (u : LoadUse) (v : Word) : State :=
  match u with
  | .register rd => s.setReg rd v
  | .compareSource rd => s.setCompare v (s.reg rd)
  | .compareDest source => s.setCompare source v

/-- A 16-bit load and its use, or the first byte of it. -/
def State.loadWord (s : State) (a : Word) (u : LoadUse) : State :=
  if s.platform.atomic16 then s.useLoaded u (s.memRead .int a.toNat)
  else { s with cpuAccess := some (.load a (s.readByte a.toNat) u) }

/-- A source value `v` that `Resolve` returned, used; where it came from memory its 16-bit load is made here. -/
def State.useSource (s : State) (m : ModeFlags) (opnd : Word) (u : LoadUse) (v : Word) : State :=
  if sourceInMemory m then s.loadWord opnd u else s.useLoaded u v

/-- A 16-bit store, or the first byte of it. -/
def State.storeWord (s : State) (a : Word) (v : Word) : State :=
  if s.platform.atomic16 then s.memWrite .int a.toNat v
  else { s.writeBytes a.toNat [v.extractLsb' 0 8] with cpuAccess := some (.store a (v.extractLsb' 8 8)) }

/-- The second byte of an access in progress, and what the instruction has still to do. -/
def State.finishAccess (s : State) (h : HalfAccess) : State :=
  match h with
  | .load a low u => ({ s with cpuAccess := none } : State).useLoaded u (s.readByte (a.toNat + 1) ++ low)
  | .store a high => ({ s with cpuAccess := none } : State).writeBytes (a.toNat + 1) [high]

end Sys2Proof.Machine
end

