-- ==== Sys2Proof/Machine/Arithmetic.lean ====
section
/-! DEFINITION. The ALU instructions `add`, `sub`, `cmp` (spec/43_arithmetic_compare.md). The operand of `add` and `sub` is a
byte; a register destination wraps at 16 bits and a memory destination at 8, with no flag and no fault (R136). -/

namespace Sys2Proof.Machine

/-- `add` (R130). -/
def execAdd (m : ModeFlags) (rd : RegId) (opnd : Word) (s : State) : Result :=
  .next (withResolved .byte m rd opnd s (fun d v => s.writeDest .byte d (s.readDest .byte d + v)))

/-- `sub` (R132). -/
def execSub (m : ModeFlags) (rd : RegId) (opnd : Word) (s : State) : Result :=
  .next (withResolved .byte m rd opnd s (fun d v => s.writeDest .byte d (s.readDest .byte d - v)))

/-- The source value compared with the destination's. A memory operand, source or destination, is a 16-bit access
(20_memory.md R52). -/
def State.compareWord (s : State) (m : ModeFlags) (opnd : Word) (d : Dest) (v : Word) : State :=
  match d with
  | .mem a => s.loadWord a (.compareDest v)
  | .reg r => s.useSource m opnd (.compareSource r) v

/-- `cmp` (R134): `cr` is `CC_UNDEF` before the operand is resolved, so it stays so when `Resolve` raises. -/
def execCmp (m : ModeFlags) (rd : RegId) (opnd : Word) (s : State) : Result :=
  let s' := s.setCr Config.ccUndef
  .next (withResolved .int m rd opnd s' (fun d v => s'.compareWord m opnd d v))

end Sys2Proof.Machine
end

