-- ==== Sys2Proof/Machine/Control.lean ====
section
/-! DEFINITION. Control transfer `jmp`, `breq`, `brneq` (spec/44_control_transfer.md). -/

namespace Sys2Proof.Machine

/-- `jmp` (R142). -/
def execJmp (target : Word) (s : State) : Result :=
  match resolveTarget target s with
  | .ok t => .next { s with pc := branchPc t }
  | .error f => .next (s.raise f)

/-- A conditional branch (R144, R145): the target is resolved first, a raise leaves `cr` and `pc`; otherwise `cr` becomes
`CC_UNDEF`, taken or not. -/
def State.branchIf (s : State) (flag : Byte) (target : Word) : State :=
  match resolveTarget target s with
  | .error f => s.raise f
  | .ok t =>
    if s.hasFlag flag then { s.setCr Config.ccUndef with pc := branchPc t } else s.setCr Config.ccUndef

/-- `breq` (R144): taken when `cr` holds `CC_EQ`. -/
def execBreq (target : Word) (s : State) : Result := .next (s.branchIf Config.ccEq target)

/-- `brneq` (R145): taken when `cr` holds `CC_NEQ`. -/
def execBrneq (target : Word) (s : State) : Result := .next (s.branchIf Config.ccNeq target)

end Sys2Proof.Machine
end

