-- ==== Sys2Proof/Machine/DataMovement.lean ====
section
/-! DEFINITION. The moves `mov`, `movi`, `movmr` (spec/42_data_movement.md). -/

namespace Sys2Proof.Machine

/-- `mov` (R120): the byte move; a register destination is written whole, its upper byte 0. -/
def execMov (m : ModeFlags) (rd : RegId) (opnd : Word) (s : State) : Result :=
  .next (withResolved .byte m rd opnd s (fun d v => s.writeDest .byte d v))

/-- The 16-bit value into its destination. A memory operand, source or destination, is a 16-bit access (20_memory.md R52). -/
def State.moveWord (s : State) (m : ModeFlags) (opnd : Word) (d : Dest) (v : Word) : State :=
  match d with
  | .mem a => s.storeWord a v
  | .reg r => s.useSource m opnd (.register r) v

/-- `movi` (R122): the 16-bit move. -/
def execMovi (m : ModeFlags) (rd : RegId) (opnd : Word) (s : State) : Result :=
  .next (withResolved .int m rd opnd s (fun d v => s.moveWord m opnd d v))

/-- `movmr` (R124): one byte from the address a register holds, zero-extended. -/
def execMovmr (rd : RegId) (rs : Word) (s : State) : Result :=
  match regIndex rs with
  | some r => .next (s.setReg rd (s.memRead .byte (s.reg r).toNat))
  | none => .next (s.raise .reg)

end Sys2Proof.Machine
end

