-- ==== Sys2Proof/Machine/Display.lean ====
section
/-! DEFINITION. The display-class instructions in the CPU (spec/45_display_forwarding.md R150, R152): the CPU looks at the
opcode only and appends the raw word `ir` to the VDC's queue. What the VDC does with the word is Machine/Vdc.lean. -/

namespace Sys2Proof.Machine

/-- Forwarding (R150): a full queue is a DisplayFault and the word is dropped. -/
def State.forward (s : State) : State :=
  if s.q.length = Config.qCap then s.raise .display else { s with q := s.q ++ [s.ir] }

/-- `dimd` in the CPU (R150). -/
def execDimd (s : State) : Result := .next s.forward

/-- `diclr` in the CPU (R150). -/
def execDiclr (s : State) : Result := .next s.forward

/-- `diwtrt` in the CPU (R150). -/
def execDiwtrt (s : State) : Result := .next s.forward

/-- `disetxy` in the CPU (R150). -/
def execDisetxy (s : State) : Result := .next s.forward

/-- `dichar` in the CPU (R150). -/
def execDichar (s : State) : Result := .next s.forward

/-- `diputpixel` in the CPU (R150). -/
def execDiputpixel (s : State) : Result := .next s.forward

end Sys2Proof.Machine
end

