-- ==== Sys2Proof/Machine/System.lean ====
section
/-! DEFINITION. The system instructions `halt`, `nop`, `stopc`, `rst` (spec/41_system.md). In every meaning `pc` already
holds the address of the instruction being executed (10_state.md R13); the fetch before it and the aggregation after it
are the cycle's (Machine/Cycle.lean). -/

namespace Sys2Proof.Machine

/-- `halt` (R110): `panic <- 1`. -/
def execHalt (s : State) : Result := .next { s with panic := true }

/-- `nop` (R111): no effect. -/
def execNop (s : State) : Result := .next s

/-- `stopc` (R112): `x[rd] <- pc[15:0]`, the address of the `stopc` itself. -/
def execStopc (rd : RegId) (s : State) : Result := .next (s.setReg rd (s.pc.extractLsb' 0 16))

/-- `rst` (R114): raises ProgramFault. -/
def execRst (s : State) : Result := .next (s.raise .prg)

end Sys2Proof.Machine
end

