-- ==== Sys2Proof/Machine/Dispatch.lean ====
section
/-! DEFINITION. The CPU's dispatch (spec/40_cpu_cycle.md R94): one arm per instruction. -/

namespace Sys2Proof.Machine

def exec (i : Instr) (s : State) : Host.Outcome State Fault Refusal :=
  match i with
  | .halt => Sys2Proof.Machine.execHalt s
  | .nop => Sys2Proof.Machine.execNop s
  | .mov m rd opnd => Sys2Proof.Machine.execMov m rd opnd s
  | .movi m rd opnd => Sys2Proof.Machine.execMovi m rd opnd s
  | .add m rd opnd => Sys2Proof.Machine.execAdd m rd opnd s
  | .sub m rd opnd => Sys2Proof.Machine.execSub m rd opnd s
  | .jmp target => Sys2Proof.Machine.execJmp target s
  | .cmp m rd opnd => Sys2Proof.Machine.execCmp m rd opnd s
  | .breq target => Sys2Proof.Machine.execBreq target s
  | .brneq target => Sys2Proof.Machine.execBrneq target s
  | .stopc rd => Sys2Proof.Machine.execStopc rd s
  | .rst => Sys2Proof.Machine.execRst s
  | .movmr rd rs => Sys2Proof.Machine.execMovmr rd rs s
  -- the display class: the CPU forwards the word, Machine/Vdc.lean executes it
  | .dimd _ _ _ => Sys2Proof.Machine.execDimd s
  | .diclr => Sys2Proof.Machine.execDiclr s
  | .diwtrt => Sys2Proof.Machine.execDiwtrt s
  | .disetxy _ _ => Sys2Proof.Machine.execDisetxy s
  | .dichar _ _ _ => Sys2Proof.Machine.execDichar s
  | .diputpixel _ _ _ => Sys2Proof.Machine.execDiputpixel s

end Sys2Proof.Machine
end

