-- ==== Sys2Proof/Machine/HostAgent.lean ====
section
/-! DEFINITION. The HOST's steps on the block: release, end of run and soft reboot, shutdown, the program loader and the
control flags (spec/70_reset_and_hazards.md R234 to R238, 60_exceptions.md R206, 10_state.md R22). The reset procedure
itself is `State.resetProcedure`. -/

namespace Sys2Proof.Machine

/-- The release of the reset barrier (R234). -/
def releaseTurn (s : State) : Result := .next { s with resetHold := false }

/-- Whether the HOST stops for good after a run (R236): no fault, or a shutdown request among the faults. -/
def State.stopsForGood (s : State) : Bool :=
  decide (s.exc = 0) || decide (s.exc &&& ExcKind.shutdown.bit ≠ 0)

/-- Whether every agent has stopped after a run (R236): no render walk in flight, no I/O agent between its two bytes
(assumption 13). -/
def State.allStopped (s : State) : Bool :=
  s.panic && !s.resetHold && !s.retrace && s.ioinHigh.isNone && s.iooutLow.isNone

/-- What follows the end of a run (R236), once every agent has stopped:
the final stop, or the reset procedure of a soft reboot, whose release is a step of its own. -/
def endOfRunTurn (s : State) : Result :=
  if s.allStopped then
    if s.stopsForGood then .fault .finalStop
    else if s.platform.ok then .next s.resetProcedure
    else .refused .badPlatform
  else .next s

/-- The shutdown signal (60_exceptions.md R206). -/
def shutdownTurn (s : State) : Result := if s.resetHold then .next s else .next (s.raiseExt .shutdown)

/-! ## The program loader (R238) -/

/-- Bytes with their addresses from `base` on, zeros among them. -/
def numbered : Nat → List Byte → List Host.Cell
  | _, [] => []
  | base, v :: vs => (base, v) :: numbered (base + 1) vs

/-- A 32-bit little-endian word of an image's header. -/
def headerWord (image : List Byte) (at_ : Nat) : Option DWord :=
  match image.drop at_ with
  | b0 :: b1 :: b2 :: b3 :: _ => some (wordOfBytes b0 b1 b2 b3)
  | _ => none

/-- Bytes the program region holds (20_memory.md R61). -/
def programCapacity : Nat := Config.memSize - Config.prgStart

/-- The code segment of an image whose header is valid: the magic matches and `code_size` is at most the capacity. An image
shorter than its header says is no valid image (assumption 9). -/
def validBody (magic : DWord) (image : List Byte) : Option (List Byte) :=
  match headerWord image 0, headerWord image 12 with
  | some m, some size =>
    let body := image.drop Config.headerSize
    if m = magic ∧ size.toNat ≤ programCapacity ∧ size.toNat ≤ body.length then some (body.take size.toNat) else none
  | _, _ => none

/-- A load begins, or is rejected with ProgramFault and no byte of RAM changed. -/
def State.beginLoad (s : State) (body : Option (List Byte)) : State :=
  match body with
  | some bs => { s with load := some (numbered Config.prgStart bs) }
  | none => s.raiseExt .prg

/-- The loader is given an image (R238). One load is in progress at a time (assumption 9). That an image may be loaded in a
run that follows a soft reboot as in any other is the model's choice: R236 reads the source as the HOST not loading again
by itself, and R238 allows loader steps whenever the machine runs (assumption 20). -/
def loadOpenTurn (image : List Byte) (s : State) : Result :=
  if s.running && s.load.isNone then .next (s.beginLoad (validBody s.platform.prgMagic image)) else .next s

/-- The direct-load variant (R238): the image past the header's offset, the header unread. It too may come after a soft
reboot (assumption 20). -/
def loadDirectTurn (image : List Byte) (s : State) : Result :=
  let body := image.drop Config.headerSize
  if s.running && s.load.isNone then
    .next (s.beginLoad (if body.length ≤ programCapacity then some body else none))
  else .next s

/-- The loader copies the `k`-th of its remaining bytes (R238). -/
def loadCopyTurn (k : Nat) (s : State) : Result :=
  if s.running then
    match s.load with
    | none => .next s
    | some cs =>
      match cs[k]? with
      | none => .next s
      | some c => .next { s.writeBytes c.1 [c.2] with load := some (cs.eraseIdx k) }
  else .next s

/-- After the last byte the loader sets `PRG_LOADING` to 1 (R238). -/
def loadDoneTurn (s : State) : Result :=
  if s.running && decide (s.load = some []) then .next { s.writeBytes Config.prgLoading [1] with load := none }
  else .next s

/-! ## The HOST's control flags and the boot-status byte -/

/-- The control flags the HOST owns (10_state.md R22). -/
def controlTurn (debugEn : Bool) (clkDiv : Nat) (s : State) : Result :=
  .next { s with debugEn := debugEn, clkDiv := clkDiv }

/-- A value for `BOOT_STATUS` (20_memory.md R42; assumption 10). -/
def bootStatusTurn (v : Byte) (s : State) : Result :=
  if s.running then .next (s.writeBytes Config.bootStatus [v]) else .next s

end Sys2Proof.Machine
end

