-- ==== Sys2Proof/Machine/IoPort.lean ====
section
/-! DEFINITION. The two I/O agents that bridge the memory-mapped cells to the HOST's streams (spec/47_ioport.md). With `ATOMIC16`
false each moves its 16-bit value in two byte accesses, low address first (20_memory.md R52, assumption 6); the second is
enabled even after `panic`, since an agent completes its current tick (10_state.md R21). -/

namespace Sys2Proof.Machine

/-- The input cell written (R192), or its first byte. -/
def State.storeInput (s : State) (v : Word) : State :=
  if s.platform.atomic16 then s.memWrite .int Config.ioIn v
  else { s.writeBytes Config.ioIn [v.extractLsb' 0 8] with ioinHigh := some (v.extractLsb' 8 8) }

/-- IOIN's step (R192): the stream's next value mod 2^16 into `IO_IN`, or the I/O fault when the stream is broken. -/
def ioinTurn (value : Option Nat) (s : State) : Result :=
  if s.running && s.ioinHigh.isNone then
    match value with
    | some n => .next (s.storeInput (BitVec.ofNat 16 n))
    | none => .next s.raiseIo
  else .next s

/-- IOIN's second byte. -/
def ioinFinishTurn (s : State) : Result :=
  match s.ioinHigh with
  | some high => .next (({ s with ioinHigh := none } : State).writeBytes (Config.ioIn + 1) [high])
  | none => .next s

/-- A value handed to the output stream. -/
def State.send (s : State) (v : Word) : State := { s with outStream := s.outStream ++ [v] }

/-- The output cell read and sent (R193), or its first byte read. -/
def State.sampleOutput (s : State) : State :=
  if s.platform.atomic16 then s.send (s.readWord Config.ioOut) else { s with iooutLow := some (s.readByte Config.ioOut) }

/-- IOOUT's step (R193): the value of `IO_OUT` to the output stream, or the I/O fault when the stream is broken. -/
def iooutTurn (streamOk : Bool) (s : State) : Result :=
  if s.running && s.iooutLow.isNone then
    if streamOk then .next s.sampleOutput else .next s.raiseIo
  else .next s

/-- IOOUT's second byte and the hand-over; the stream may have broken since the first. -/
def iooutFinishTurn (streamOk : Bool) (s : State) : Result :=
  match s.iooutLow with
  | some low =>
    let s' : State := { s with iooutLow := none }
    if streamOk then .next (s'.send (s.readByte (Config.ioOut + 1) ++ low)) else .next s'.raiseIo
  | none => .next s

end Sys2Proof.Machine
end

