-- ==== Sys2Proof/Machine/Vdc.lean ====
section
/-! DEFINITION. The VDC: the queue's consumer and the six display instructions as the VDC executes them
(spec/46_vdc.md R160 to R176). The VDC reads the CPU's registers and RAM when it executes a word, not when the CPU pushed
it (R160). -/

namespace Sys2Proof.Machine

/-! ## Modes (R164) -/

/-- H, the columns of a mode. -/
def VMode.cols : VMode → Nat
  | .off => 0
  | .text8x12 => 8
  | .text80x25 => 80
  | .pixel => 640

/-- V, the rows of a mode. -/
def VMode.rows : VMode → Nat
  | .off => 0
  | .text8x12 => 12
  | .text80x25 => 25
  | .pixel => 480

/-- The mode a code names; `none` is an invalid mode (R165). Mode 3 exists only with `HAS_PIXEL`. -/
def VMode.ofCode (hasPixel : Bool) (m : Byte) : Option VMode :=
  if m = Config.modeText8x12 then some .text8x12
  else if m = Config.modeText80x25 then some .text80x25
  else if m = Config.modePixel640x480 ∧ hasPixel = true then some .pixel
  else none

/-- Whether a column and a row lie in a mode. -/
def VMode.contains (v : VMode) (x y : Word) : Bool := decide (x.toNat < v.cols) && decide (y.toNat < v.rows)

/-- The index of the cursor's cell, row-major: cy·H + cx. -/
def State.cursorCell (s : State) : Nat := s.cy.toNat * s.vmode.cols + s.cx.toNat

/-- `Clear()` (R167): H·V cells of the current mode set to its blank. -/
def State.clear (s : State) : State :=
  match s.vmode with
  | .off => s
  | .text8x12 => { s with mem := fillCells s.mem Config.fbStart (8 * 12) Config.blankText }
  | .text80x25 => { s with mem := fillCells s.mem Config.fbStart (80 * 25) Config.blankText }
  | .pixel => { s with pix := fillCells s.pix 0 Config.pixSize Config.blankPixel }

/-! ## The display instructions -/

/-- `dimd` (R165): the one display instruction that runs while the adapter is disabled; it enables it. -/
def vdcDimd (sr sm : Bool) (opnd : Word) (s : State) : State :=
  match srcByte sr sm opnd s with
  | none => s.raiseVdc
  | some b =>
    match VMode.ofCode s.platform.hasPixel b with
    | none => s.raiseVdc
    | some v => State.clear { s with vmode := v }

/-- `diclr` (R168). -/
def vdcDiclr (s : State) : State := if s.vmode = .off then s.raiseVdc else s.clear

/-- `diwtrt` (R169), once it is not held: the word is gone and nothing else changes. -/
def vdcDiwtrt (s : State) : State := if s.vmode = .off then s.raiseVdc else s

/-- `disetxy` (R170): the cursor from two registers, checked against the current mode. -/
def vdcDisetxy (rx : RegId) (ry : Word) (s : State) : State :=
  if s.vmode = .off then s.raiseVdc
  else
    match regIndex ry with
    | none => s.raiseVdc
    | some r =>
      if s.vmode.contains (s.reg rx) (s.reg r) then { s with cx := s.reg rx, cy := s.reg r } else s.raiseVdc

/-- `dichar` (R172): one glyph at the cursor of a text mode; the cursor stays. -/
def vdcDichar (sr sm : Bool) (opnd : Word) (s : State) : State :=
  if s.vmode = .off then s.raiseVdc
  else
    match srcByte sr sm opnd s with
    | none => s.raiseVdc
    | some b =>
      if s.vmode = .pixel then s.raiseVdc
      else if s.vmode.contains s.cx s.cy then s.writeBytes (Config.fbStart + s.cursorCell) [b]
      else s.raiseVdc

/-- `diputpixel` (R174): one pixel at the cursor of the pixel mode. -/
def vdcDiputpixel (sr sm : Bool) (opnd : Word) (s : State) : State :=
  if s.vmode = .off then s.raiseVdc
  else
    match srcByte sr sm opnd s with
    | none => s.raiseVdc
    | some b =>
      if s.vmode = .pixel then
        if s.vmode.contains s.cx s.cy then { s with pix := blit s.pix s.cursorCell [b] } else s.raiseVdc
      else s.raiseVdc

/-! ## The VDC's step -/

/-- The VDC's dispatch (R162). No other instruction can be in the queue (assumption 11). -/
def vdcExec (i : Instr) (s : State) : Result :=
  match i with
  | .dimd sr sm opnd => .next (vdcDimd sr sm opnd s)
  | .diclr => .next (vdcDiclr s)
  | .diwtrt => .next (vdcDiwtrt s)
  | .disetxy rx ry => .next (vdcDisetxy rx ry s)
  | .dichar sr sm opnd => .next (vdcDichar sr sm opnd s)
  | .diputpixel sr sm opnd => .next (vdcDiputpixel sr sm opnd s)
  | .halt => .fault .foreignQueueWord
  | .nop => .fault .foreignQueueWord
  | .mov _ _ _ => .fault .foreignQueueWord
  | .movi _ _ _ => .fault .foreignQueueWord
  | .add _ _ _ => .fault .foreignQueueWord
  | .sub _ _ _ => .fault .foreignQueueWord
  | .jmp _ => .fault .foreignQueueWord
  | .cmp _ _ _ => .fault .foreignQueueWord
  | .breq _ => .fault .foreignQueueWord
  | .brneq _ => .fault .foreignQueueWord
  | .stopc _ => .fault .foreignQueueWord
  | .rst => .fault .foreignQueueWord
  | .movmr _ _ => .fault .foreignQueueWord

/-- Whether a `diwtrt` at the head of the queue holds the VDC (R161, R169). -/
def State.vdcHeld (s : State) : Bool :=
  match s.q with
  | [] => false
  | w :: _ => decide (wordOpc w = Config.opcDiwtrt) && decide (s.vmode ≠ .off) && s.retrace

/-- The VDC's step (R161, R162, R163): the oldest word is popped and executed; an empty queue is the implicit `diwait`. -/
def vdcTurn (s : State) : Result :=
  if s.running && !s.vdcHeld then
    match s.q with
    | [] => .next s
    | w :: rest =>
      match decode w with
      | .ok i => vdcExec i { s with q := rest }
      | .error _ => .fault .foreignQueueWord
  else .next s

end Sys2Proof.Machine
end

