-- ==== Sys2Proof/Machine/Render.lean ====
section
/-! DEFINITION. RENDER, the VDC's render walk over the framebuffer (spec/46_vdc.md R180, R181). It writes no state of the
block but `retrace`; the frame goes to the DisplaySink. -/

namespace Sys2Proof.Machine

/-- Whether a cell is a cell of some mode (R164): of the largest text mode, or of `PIX`. No walk reads another, so RENDER makes
no access past the end of memory (20_memory.md R40). -/
def FbCell.inFrame : FbCell → Bool
  | .text i => decide (i < VMode.text80x25.cols * VMode.text80x25.rows)
  | .pixel i => decide (i < Config.pixSize)

/-- The byte a cell holds now. -/
def State.cellNow (s : State) : FbCell → Byte
  | .text i => s.readByte (Config.fbStart + i)
  | .pixel i => readCell s.pix i

/-- The value the walk shows for a cell: what it read during the walk, or what the cell holds at the finish. -/
def State.cellShown (s : State) (c : FbCell) : Byte :=
  match s.samples.find? (fun p => decide (p.1 = c)) with
  | some p => p.2
  | none => s.cellNow c

/-- The cells of a mode in row-major order (R164, R181). -/
def VMode.frameCells (v : VMode) : List FbCell :=
  (List.range (v.cols * v.rows)).map (fun i => if v = .pixel then FbCell.pixel i else FbCell.text i)

/-- RENDER start (R180). -/
def renderStartTurn (s : State) : Result :=
  if s.running && decide (s.vmode ≠ .off) && !s.retrace then .next { s with retrace := true, samples := [] }
  else .next s

/-- RENDER reads one cell of the walk in flight. The frame's value of a cell is "the value the cell held at some moment
between the start step and the finish step" (R181), so a cell of any mode may be read at any moment of the walk
(assumption 15). A number that names no cell is not read. -/
def renderSampleTurn (c : FbCell) (s : State) : Result :=
  if s.retrace && c.inFrame then .next { s with samples := (c, s.cellNow c) :: s.samples } else .next s

/-- RENDER finish (R181): the mode in force and its cells go to the sink. Enabled even after `panic`. -/
def renderFinishTurn (s : State) : Result :=
  if s.retrace then
    .next { s with
      retrace := false
      samples := []
      sink := s.sink ++ [{ mode := s.vmode, cells := s.vmode.frameCells.map s.cellShown }] }
  else .next s

end Sys2Proof.Machine
end

