-- ==== Sys2Proof/Machine/Cycle.lean ====
section
/-! DEFINITION. The CPU cycle (spec/40_cpu_cycle.md R90 to R98), whose turn it is, and the turns of all agents
(00_scope.md R5). -/

namespace Sys2Proof.Machine

/-- Step 1 of the cycle: `pc <- (pc + 4) mod 2^PCLEN`. -/
def State.advance (s : State) : State := { s with pc := s.pc + 4 }

/-- Step 2's check, after the increment: fewer than four bytes left (R91). -/
def State.stray (s : State) : Bool := decide (Config.memSize - Config.iLen < s.pc.toNat)

/-- Step 3: `ir <- MemRead(pc, 4)` (R92). -/
def State.fetch (s : State) : State := { s with ir := s.readDWord s.pc.toNat }

/-- Step 5's `cpu_exc <- 0`. -/
def State.startDecode (s : State) : State := { s with cpuExc := 0 }

/-- Steps 6 and 7 after an instruction, unless it is between the two bytes of a 16-bit access (20_memory.md R52). -/
def State.endCycle (s : State) : State := if s.cpuAccess.isSome then s else s.aggregate

/-- `endCycle` of an instruction's next state. -/
def closeCycle : Result → Result
  | .next t => .next t.endCycle
  | .fault f => .fault f
  | .refused r => .refused r

/-- Step 5's dispatch (R94): an unrecognized opcode raises InstructionFault and does nothing else (30_encoding.md R79). -/
def dispatch (s : State) : Result :=
  match decode s.ir with
  | .ok i => exec i s
  | .error _ => .next (s.raise .instr)

/-- A CPU cycle from its start (R90): the whole cycle, or up to the first byte of a 16-bit access. -/
def startCycle (s : State) : Result :=
  let s1 := s.advance
  if s1.stray then .next (s1.raise .prg).aggregate
  else
    let s2 := s1.fetch
    if s2.exc ≠ 0 then .next s2.aggregate else closeCycle (dispatch s2.startDecode)

/-- The CPU's step, enabled as R98 says: a cycle from its start, or the rest of one whose 16-bit access is in progress. -/
def cpuTurn (s : State) : Result :=
  if s.running then
    match s.cpuAccess with
    | some h => .next (s.finishAccess h).aggregate
    | none => startCycle s
  else .next s

/-- Whose turn it is when the schedule is empty: the HOST's while the barrier holds and once the run has ended and every
agent has stopped, the CPU's while the machine runs (assumption 1). -/
def State.defaultTurn (s : State) : Turn :=
  if s.resetHold then .release
  else if s.panic then
    if s.retrace then .renderFinish
    else if s.ioinHigh.isSome then .ioinFinish
    else if s.iooutLow.isSome then .iooutFinish true
    else .endOfRun
  else .cpu

/-- Whose turn it is. -/
def State.nextTurn (s : State) : Turn :=
  match s.sched with
  | [] => s.defaultTurn
  | t :: _ => t

/-- The state with the turn taken off the schedule. -/
def State.dropTurn (s : State) : State := { s with sched := s.sched.tail }

/-- One turn. -/
def runTurn (t : Turn) (s : State) : Result :=
  match t with
  | .cpu => cpuTurn s
  | .vdc => vdcTurn s
  | .renderStart => renderStartTurn s
  | .renderSample c => renderSampleTurn c s
  | .renderFinish => renderFinishTurn s
  | .ioin v => ioinTurn v s
  | .ioinFinish => ioinFinishTurn s
  | .ioout ok => iooutTurn ok s
  | .iooutFinish ok => iooutFinishTurn ok s
  | .release => releaseTurn s
  | .endOfRun => endOfRunTurn s
  | .shutdown => shutdownTurn s
  | .loadOpen image => loadOpenTurn image s
  | .loadDirect image => loadDirectTurn image s
  | .loadCopy k => loadCopyTurn k s
  | .loadDone => loadDoneTurn s
  | .control d c => controlTurn d c s
  | .bootStatus v => bootStatusTurn v s

/-- The value of `pc` from which the next cycle can fetch: the present one, or `PC_RESET` where that would run off the end. -/
def State.fetchablePc (s : State) : DWord := if s.advance.stray then Config.pcReset else s.pc

/-- `s` with a table row's word where the next cycle fetches it, released, running and on the CPU's turn. -/
def State.placeWord (s : State) (nbits w : Nat) : State :=
  { s with
    mem := blit s.mem (s.fetchablePc + 4).toNat (tableWordBytes nbits w)
    pc := s.fetchablePc
    resetHold := false
    panic := false
    exc := 0
    cpuAccess := none
    sched := .cpu :: s.sched }

end Sys2Proof.Machine
end

