-- ==== Sys2Proof/Machine/Step.lean ====
section
/-! DEFINITION. One step of the machine: one turn of one agent (spec/00_scope.md R5). -/

namespace Sys2Proof.Machine

/-- One step. -/
def step (s : State) : Host.Outcome State Fault Refusal := runTurn s.nextTurn s.dropTurn

/-- `s` with an instruction's word stored where `step` fetches its next instruction, and all that this takes: the reset
barrier released and the CPU's turn (assumption 3). -/
def State.withFetchWord (s : State) (nbits w : Nat) : State := s.placeWord nbits w

end Sys2Proof.Machine
end

