-- ==== Sys2Proof/Safety.lean ====
section
/-! DEFINITION. What a sound state of the machine is (the invariants the spec states or that follow from its rules), and
the vocabulary in which claims speak of operands and of what a step leaves unchanged, written from the spec's tables and
not from the machine's functions. -/

namespace Sys2Proof.Machine

/-- A word that the CPU forwards to the VDC (spec/46_vdc.md R162: "Only the six display-class opcodes can be in `q`"). -/
def isDisplayWord (w : DWord) : Bool :=
  match decode w with
  | .ok i => i.isDisplay
  | .error _ => false

/-- The four values `cr` ever holds (10_state.md R17). -/
def crLegal (c : Byte) : Bool :=
  decide (c = Config.ccUndef) || decide (c = Config.ccEq ||| Config.ccZero) ||
    decide (c = Config.ccGr ||| Config.ccNeq) || decide (c = Config.ccLe ||| Config.ccNeq)

/-- Both bytes of an access in progress lie in memory, and a store's where the CPU may store (20_memory.md R43, R45). -/
def HalfAccess.InRange : HalfAccess → Prop
  | .load a _ _ => a.toNat + 2 ≤ 65536
  | .store a _ => 0x00FE ≤ a.toNat ∧ a.toNat + 2 ≤ 65536

/-- The invariant of the machine. -/
structure State.Inv (s : State) : Prop where
  /-- RAM is in canonical form, inside the address space (20_memory.md R40). -/
  memCanonical : Memory.wf Config.memSize s.mem = true
  /-- `PIX` is in canonical form, inside its 640 × 480 cells (10_state.md R25). -/
  pixCanonical : Memory.wf Config.pixSize s.pix = true
  /-- 10_state.md R17. -/
  crValue : crLegal s.cr = true
  /-- 10_state.md R27. -/
  queueBounded : s.q.length ≤ Config.qCap
  /-- 46_vdc.md R162. -/
  queueDisplay : ∀ w ∈ s.q, isDisplayWord w = true
  /-- 10_state.md R18: bit 7 of `exc` is always 0. -/
  excBit7 : s.exc.getLsbD 7 = false
  /-- 10_state.md R19: the same bit values, so bit 7 of `cpu_exc` is 0 too. -/
  cpuExcBit7 : s.cpuExc.getLsbD 7 = false
  /-- 10_state.md R20: only `EXC_DISPLAY` is ever set in `vdc_exc`. -/
  vdcExcOnly : s.vdcExc &&& ~~~Config.excDisplay = 0
  /-- 10_state.md R20: only `EXC_IOPORT` in `io_exc`. -/
  ioExcOnly : s.ioExc &&& ~~~Config.excIoport = 0
  /-- 10_state.md R20: only `EXC_PRG` and `EXC_SHUTDOWN` in `ext_exc`. -/
  extExcOnly : s.extExc &&& ~~~(Config.excPrg ||| Config.excShutdown) = 0
  /-- 40_cpu_cycle.md R93, R95: a fault in `exc` has stopped the machine. -/
  faultStops : s.exc ≠ 0 → s.panic = true
  /-- 46_vdc.md R164, R174: mode 3 is set only where it exists. -/
  pixelMode : s.vmode = .pixel → s.platform.hasPixel = true
  /-- 46_vdc.md R180: a walk is in flight only with the adapter enabled. -/
  walkEnabled : s.retrace = true → s.vmode ≠ .off
  /-- 46_vdc.md R170: the cursor was checked against some mode, none larger than 640 × 480. -/
  cursorBounded : s.cx.toNat < 640 ∧ s.cy.toNat < 480
  /-- 70_reset_and_hazards.md R238: the loader writes the program region only. -/
  loadInRegion : ∀ cs, s.load = some cs → ∀ c ∈ cs, Config.prgStart ≤ c.1 ∧ c.1 < Config.memSize
  /-- 70_reset_and_hazards.md R230, 20_memory.md R56: behind the reset barrier nothing has happened since the reset. -/
  heldIsFresh : s.resetHold = true → s.panic = false ∧ s.retrace = false ∧ s.q = [] ∧ s.vmode = .off ∧
    s.cpuAccess = none ∧ s.ioinHigh = none ∧ s.iooutLow = none
  /-- 20_memory.md R52: only with `ATOMIC16` false is an access ever half done, and the CPU does not stop inside one (R21). -/
  cpuAccessTorn : ∀ h, s.cpuAccess = some h → s.platform.atomic16 = false ∧ s.panic = false ∧ h.InRange
  /-- 20_memory.md R52, for IOIN and IOOUT. -/
  ioAccessTorn : s.ioinHigh ≠ none ∨ s.iooutLow ≠ none → s.platform.atomic16 = false

/-! ## What a step leaves unchanged -/

/-- Everything no CPU instruction writes is the same: all but the registers, `pc`, `cr`, `cpu_exc`, `panic`, `RAM`, `q`
and its access in progress. -/
structure State.SameBeyondCpu (s t : State) : Prop where
  ir : t.ir = s.ir
  exc : t.exc = s.exc
  vdcExc : t.vdcExc = s.vdcExc
  ioExc : t.ioExc = s.ioExc
  extExc : t.extExc = s.extExc
  resetHold : t.resetHold = s.resetHold
  debugEn : t.debugEn = s.debugEn
  clkDiv : t.clkDiv = s.clkDiv
  pix : t.pix = s.pix
  vmode : t.vmode = s.vmode
  cx : t.cx = s.cx
  cy : t.cy = s.cy
  retrace : t.retrace = s.retrace
  ioinHigh : t.ioinHigh = s.ioinHigh
  iooutLow : t.iooutLow = s.iooutLow
  platform : t.platform = s.platform
  outStream : t.outStream = s.outStream
  sink : t.sink = s.sink
  samples : t.samples = s.samples
  load : t.load = s.load
  sched : t.sched = s.sched

/-- The CPU's own state is the same: registers, `pc`, `cr`, `ir`, `exc`, `cpu_exc`, its access in progress. -/
structure State.SameCpu (s t : State) : Prop where
  regs : t.regs = s.regs
  pc : t.pc = s.pc
  cr : t.cr = s.cr
  ir : t.ir = s.ir
  exc : t.exc = s.exc
  cpuExc : t.cpuExc = s.cpuExc
  cpuAccess : t.cpuAccess = s.cpuAccess

/-- Every byte of RAM reads as before. -/
def State.sameBytes (s t : State) : Prop := ∀ a : Nat, t.readByte a = s.readByte a

/-- Every byte of RAM outside the `n` bytes from `a` on reads as before. -/
def State.sameBytesOutside (s t : State) (a n : Nat) : Prop :=
  ∀ b : Nat, (b < a ∨ a + n ≤ b) → t.readByte b = s.readByte b

/-- A state function applied to the next state a step answers. -/
def mapNext (f : State → State) : Result → Result
  | .next t => .next (f t)
  | .fault r => .fault r
  | .refused r => .refused r

/-- The state with the four local fault fields ORed into `exc`, and `panic` set when the result is not 0 (40_cpu_cycle.md
R90 steps 6 and 7, R95). -/
def State.aggregated (t : State) : State :=
  { t with
    exc := t.exc ||| t.cpuExc ||| t.vdcExc ||| t.ioExc ||| t.extExc
    panic := t.panic || decide (t.exc ||| t.cpuExc ||| t.vdcExc ||| t.ioExc ||| t.extExc ≠ 0) }

/-! ## The operand forms, as 30_encoding.md R75 tabulates them -/

/-- Register-destination form with the source value `raw`, before masking; `n` is the bytes a memory source has. -/
def RegForm (m : ModeFlags) (opnd : Word) (n : Nat) (s : State) (raw : Nat) : Prop :=
  m.dr = true ∧ m.dm = false ∧
    ((m.sr = true ∧ ∃ h : opnd.toNat < 16, raw = (s.reg ⟨opnd.toNat, h⟩).toNat) ∨
      (m.sr = false ∧ m.sm = true ∧ n = 1 ∧ raw = (s.readByte opnd.toNat).toNat) ∨
      (m.sr = false ∧ m.sm = true ∧ n = 2 ∧ opnd.toNat + 2 ≤ 65536 ∧
        raw = (s.readByte opnd.toNat).toNat + 256 * (s.readByte (opnd.toNat + 1)).toNat) ∨
      (m.sr = false ∧ m.sm = false ∧ raw = opnd.toNat))

/-- A register-destination word whose source is in memory: `SM` without `SR` (30_encoding.md R75). -/
def SourceInMemory (m : ModeFlags) : Prop := m.sr = false ∧ m.sm = true

/-- Memory-destination form at an address that takes `n` bytes: from `RW_START` on and inside memory. -/
def MemForm (m : ModeFlags) (opnd : Word) (n : Nat) : Prop :=
  m.dr = false ∧ m.dm = true ∧ 0x00FE ≤ opnd.toNat ∧ opnd.toNat + n ≤ 65536

/-- A format-A word that raises the fault of bit `f`, with `n` the bytes of an access (60_exceptions.md R200, R201):
InstructionFault 0x01, MemoryFault 0x02, RegisterFault 0x04. -/
def FormFaults (m : ModeFlags) (opnd : Word) (n : Nat) (f : Byte) : Prop :=
  (f = 0x01 ∧ m.dr = m.dm) ∨
    (f = 0x04 ∧ m.dr = true ∧ m.dm = false ∧ m.sr = true ∧ 15 < opnd.toNat) ∨
    (f = 0x02 ∧ m.dr = true ∧ m.dm = false ∧ m.sr = false ∧ m.sm = true ∧ 65536 < opnd.toNat + n) ∨
    (f = 0x02 ∧ m.dr = false ∧ m.dm = true ∧ (opnd.toNat < 0x00FE ∨ 65536 < opnd.toNat + n))

/-- The target address of a format-B field (R76, 44_control_transfer.md R140). -/
def TargetIs (t : Word) (s : State) (a : Nat) : Prop :=
  (0x0100 ≤ t.toNat ∧ a = t.toNat) ∨ ∃ h : t.toNat < 16, a = (s.reg ⟨t.toNat, h⟩).toNat

/-- The source byte of a format-VS word (46_vdc.md R166). -/
def VdcByte (sr sm : Bool) (opnd : Word) (s : State) (b : Nat) : Prop :=
  (sr = true ∧ ∃ h : opnd.toNat < 16, b = (s.reg ⟨opnd.toNat, h⟩).toNat % 256) ∨
    (sr = false ∧ sm = true ∧ b = (s.readByte opnd.toNat).toNat) ∨
    (sr = false ∧ sm = false ∧ b = opnd.toNat % 256)

/-- The flags `cmp` sets for a source value and a destination value (43_arithmetic_compare.md R134). -/
def CompareFlags (swap : Bool) (src dst : Nat) (c : Byte) : Prop :=
  (src = dst ∧ c = 0x05) ∨
    (swap = false ∧ dst < src ∧ c = 0x12) ∨ (swap = false ∧ src < dst ∧ c = 0x22) ∨
    (swap = true ∧ src < dst ∧ c = 0x12) ∨ (swap = true ∧ dst < src ∧ c = 0x22)

/-- A text mode with its columns and rows (46_vdc.md R164). -/
def TextMode (v : VMode) (h rows : Nat) : Prop :=
  (v = .text8x12 ∧ h = 8 ∧ rows = 12) ∨ (v = .text80x25 ∧ h = 80 ∧ rows = 25)

/-- Any enabled mode with its columns and rows (R164). -/
def ModeSize (v : VMode) (h rows : Nat) : Prop := TextMode v h rows ∨ (v = .pixel ∧ h = 640 ∧ rows = 480)

/-- A cell of some mode (R164): of the largest text mode, 80 × 25, or of the 640 × 480 pixels. -/
def CellOfSomeMode (c : FbCell) : Prop :=
  (∃ i : Nat, i < 2000 ∧ c = .text i) ∨ ∃ i : Nat, i < 307200 ∧ c = .pixel i

/-- The mode a valid code sets (R164, R165). -/
def ModeCode (hasPixel : Bool) (b : Nat) (v : VMode) : Prop :=
  (b = 1 ∧ v = .text8x12) ∨ (b = 2 ∧ v = .text80x25) ∨ (b = 3 ∧ hasPixel = true ∧ v = .pixel)

end Sys2Proof.Machine
end

