-- ==== Sys2Proof/Certificates/Slice0/Obligations.lean ====
section
/-! DEFINITION. The statements for the provers. Rule names R<n> are those of spec/. A statement over every state is a
statement over every schedule too: the schedule is part of the state. -/

open Sys2Proof Sys2Proof.Machine

/-! ## Encoding -/

/-- Decode and encode agree (R71, R73, R78, R86): every instruction, with every value of every field, is read back from
its own word. No bit of an encoding is dropped. -/
def Obligations.DecodeEncodeAgree : Prop := ∀ i : Instr, decode (encode i) = .ok i

/-- The other direction (R73): a word that decodes is the encoding of its instruction, but for the bits its format
ignores. -/
def Obligations.EncodeDecodeKeepsUsedBits : Prop :=
  ∀ (w : DWord) (i : Instr), decode w = .ok i → encode i = w &&& usedBits i

/-- R79: exactly the opcode bytes outside the table of R78 are unrecognized (with the default numbers 0x0D to 0x0F and 0x16
to 0xFF), and the CPU then raises InstructionFault and does nothing else. -/
def Obligations.UnrecognizedOpcodeRaisesInstructionFault : Prop :=
  ∀ w : DWord,
    ((0x0D ≤ (wordOpc w).toNat ∧ (wordOpc w).toNat ≤ 0x0F) ∨ 0x16 ≤ (wordOpc w).toNat →
      ∀ s : State, s.ir = w → dispatch s = .next { s with cpuExc := s.cpuExc ||| 0x01 }) ∧
    ((wordOpc w).toNat ≤ 0x0C ∨ (0x10 ≤ (wordOpc w).toNat ∧ (wordOpc w).toNat ≤ 0x15) →
      ∃ i : Instr, decode w = .ok i ∧ ∀ s : State, s.ir = w → dispatch s = exec i s)

/-- A few words of the spec's own examples (R112, R120, R122, R124, R130, R134, R142, R150, R170) decode to what they
stand for. -/
def Obligations.ExampleWordsDecode : Prop :=
  decode 0x01AA1202 = .ok (.mov ⟨true, false, false, false⟩ 2 0x01AA) ∧
    decode 0x20022103 = .ok (.movi ⟨false, true, false, false⟩ 1 0x2002) ∧
    decode 0x0003040C = .ok (.movmr 4 3) ∧
    decode 0x00101404 = .ok (.add ⟨true, false, false, false⟩ 4 0x10) ∧
    decode 0x00051107 = .ok (.cmp ⟨true, false, false, false⟩ 1 5) ∧
    decode 0x01080006 = .ok (.jmp 0x0108) ∧
    decode 0x0000070A = .ok (.stopc 7) ∧
    decode 0x00410014 = .ok (.dichar false false 0x41) ∧
    decode 0x00020113 = .ok (.disetxy 1 2)

/-! ## Memory -/

/-- R46: `MemRead` of one, two and four bytes is little-endian. -/
def Obligations.ReadsAreLittleEndian : Prop :=
  ∀ (s : State) (a : Nat),
    (s.memRead .byte a).toNat = (s.readByte a).toNat ∧
      (s.memRead .int a).toNat = (s.readByte a).toNat + 256 * (s.readByte (a + 1)).toNat ∧
      (s.readDWord a).toNat = (s.readByte a).toNat + 2 ^ 8 * (s.readByte (a + 1)).toNat +
        2 ^ 16 * (s.readByte (a + 2)).toNat + 2 ^ 24 * (s.readByte (a + 3)).toNat

/-- R47: `MemWrite` stores the low `8n` bits of `v` at `a`, low byte first, drops the bits above, and changes no other
byte and nothing but RAM. -/
def Obligations.WritesStoreExactlyTheirBytes : Prop :=
  ∀ (s : State) (a : Nat) (v : Word),
    (s.memWrite .byte a v).readByte a = v.extractLsb' 0 8 ∧
      (s.memWrite .int a v).readByte a = v.extractLsb' 0 8 ∧
      (s.memWrite .int a v).readByte (a + 1) = v.extractLsb' 8 8 ∧
      (∀ b, b ≠ a → (s.memWrite .byte a v).readByte b = s.readByte b) ∧
      (∀ b, b ≠ a → b ≠ a + 1 → (s.memWrite .int a v).readByte b = s.readByte b) ∧
      (∀ w, s.memWrite w a v = { s with mem := (s.memWrite w a v).mem })

/-- R49: a mixed-width access sees plain bytes, in both directions. -/
def Obligations.MixedWidthAccessesSeePlainBytes : Prop :=
  ∀ (s : State) (a : Nat) (v : Word),
    (s.memWrite .int a v).memRead .byte a = v % 256 ∧
      (s.memWrite .int a v).memRead .byte (a + 1) = v / 256 ∧
      ((s.memWrite .byte a (v % 256)).memWrite .byte (a + 1) (v / 256)).memRead .int a = v

/-! ## Data movement (42_data_movement.md) -/

/-- R120 `mov`: its words; the byte moved in each form, a register destination written whole with its upper byte 0; the
faults of `Resolve`, with their bits (R200), before any write. Every equation says that nothing else changes. -/
def Obligations.MovMovesOneByte : Prop :=
  (∀ w : DWord, wordOpc w = 0x02 → decode w = .ok (.mov (wordFlags w) (wordRd w) (wordOpnd w))) ∧
    ∀ (m : ModeFlags) (rd : RegId) (opnd : Word) (s : State),
      (∀ raw, RegForm m opnd 1 s raw → exec (.mov m rd opnd) s = .next (s.setReg rd (BitVec.ofNat 16 (raw % 256)))) ∧
      (MemForm m opnd 1 → exec (.mov m rd opnd) s = .next (s.writeBytes opnd.toNat [(s.reg rd).extractLsb' 0 8])) ∧
      (∀ f, FormFaults m opnd 1 f → exec (.mov m rd opnd) s = .next { s with cpuExc := s.cpuExc ||| f })

/-- R122 `movi`: its words; the 16-bit value moved in each form, stored low byte first; the faults, with their bits, before
any write (R96). With `ATOMIC16` false (R52) a memory operand's low byte alone is accessed here and the access stays in
progress; the last two clauses say what its second byte does (that a step does it: StepRunsDecodedInstruction). This two-step
form, with what stands in the state between the steps, is the model's reading of R52 (assumption 6). -/
def Obligations.MoviMovesSixteenBits : Prop :=
  (∀ w : DWord, wordOpc w = 0x03 → decode w = .ok (.movi (wordFlags w) (wordRd w) (wordOpnd w))) ∧
    (∀ (m : ModeFlags) (rd : RegId) (opnd : Word) (s : State),
      (∀ raw, RegForm m opnd 2 s raw → s.platform.atomic16 = true ∨ ¬SourceInMemory m →
        exec (.movi m rd opnd) s = .next (s.setReg rd (BitVec.ofNat 16 raw))) ∧
      (∀ raw, RegForm m opnd 2 s raw → s.platform.atomic16 = false → SourceInMemory m →
        exec (.movi m rd opnd) s =
          .next { s with cpuAccess := some (.load opnd (s.readByte opnd.toNat) (.register rd)) }) ∧
      (MemForm m opnd 2 → s.platform.atomic16 = true → exec (.movi m rd opnd) s =
        .next (s.writeBytes opnd.toNat [(s.reg rd).extractLsb' 0 8, (s.reg rd).extractLsb' 8 8])) ∧
      (MemForm m opnd 2 → s.platform.atomic16 = false → exec (.movi m rd opnd) s =
        .next { s.writeBytes opnd.toNat [(s.reg rd).extractLsb' 0 8] with
          cpuAccess := some (.store opnd ((s.reg rd).extractLsb' 8 8)) }) ∧
      (∀ f, FormFaults m opnd 2 f → exec (.movi m rd opnd) s = .next { s with cpuExc := s.cpuExc ||| f })) ∧
    ∀ (s : State) (a : Word),
      (∀ low rd, s.finishAccess (.load a low (.register rd)) = ({ s with cpuAccess := none } : State).setReg rd
        (BitVec.ofNat 16 (low.toNat + 256 * (s.readByte (a.toNat + 1)).toNat))) ∧
      (∀ high, s.finishAccess (.store a high) =
        ({ s with cpuAccess := none } : State).writeBytes (a.toNat + 1) [high])

/-- R124 `movmr`: its words; one byte from the address that register `rs` holds, zero-extended; RegisterFault (bit 0x04)
for an index above 15. -/
def Obligations.MovmrLoadsOneByte : Prop :=
  (∀ w : DWord, wordOpc w = 0x0C → decode w = .ok (.movmr (wordRd w) (wordOpnd w))) ∧
    ∀ (rd : RegId) (rs : Word) (s : State),
      (∀ h : rs.toNat < 16, exec (.movmr rd rs) s =
        .next (s.setReg rd (BitVec.ofNat 16 (s.readByte (s.reg ⟨rs.toNat, h⟩).toNat).toNat))) ∧
      (15 < rs.toNat → exec (.movmr rd rs) s = .next { s with cpuExc := s.cpuExc ||| 0x04 })

/-! ## Arithmetic and compare (43_arithmetic_compare.md) -/

/-- R130 `add`: its words; a byte operand added mod 2^16 to a register or mod 2^8 to a byte of memory; no flag; the faults
before any write. -/
def Obligations.AddAddsAByte : Prop :=
  (∀ w : DWord, wordOpc w = 0x04 → decode w = .ok (.add (wordFlags w) (wordRd w) (wordOpnd w))) ∧
    ∀ (m : ModeFlags) (rd : RegId) (opnd : Word) (s : State),
      (∀ raw, RegForm m opnd 1 s raw →
        exec (.add m rd opnd) s = .next (s.setReg rd (BitVec.ofNat 16 ((s.reg rd).toNat + raw % 256)))) ∧
      (MemForm m opnd 1 → exec (.add m rd opnd) s =
        .next (s.writeBytes opnd.toNat [BitVec.ofNat 8 ((s.readByte opnd.toNat).toNat + (s.reg rd).toNat)])) ∧
      (∀ f, FormFaults m opnd 1 f → exec (.add m rd opnd) s = .next { s with cpuExc := s.cpuExc ||| f })

/-- R132 `sub`: its words; a byte operand subtracted mod 2^16 or mod 2^8; no flag; the faults before any write. -/
def Obligations.SubSubtractsAByte : Prop :=
  (∀ w : DWord, wordOpc w = 0x05 → decode w = .ok (.sub (wordFlags w) (wordRd w) (wordOpnd w))) ∧
    ∀ (m : ModeFlags) (rd : RegId) (opnd : Word) (s : State),
      (∀ raw : Nat, RegForm m opnd 1 s raw → exec (.sub m rd opnd) s =
        .next (s.setReg rd (BitVec.ofInt 16 (((s.reg rd).toNat : Int) - ((raw % 256 : Nat) : Int))))) ∧
      (MemForm m opnd 1 → exec (.sub m rd opnd) s = .next (s.writeBytes opnd.toNat
        [BitVec.ofInt 8 (((s.readByte opnd.toNat).toNat : Int) - ((s.reg rd).toNat : Int))])) ∧
      (∀ f, FormFaults m opnd 1 f → exec (.sub m rd opnd) s = .next { s with cpuExc := s.cpuExc ||| f })

/-- R134 `cmp`: its words; the 16-bit unsigned comparison in each form, under both values of `CMP_SWAP`; only `cr` is
written; a fault of `Resolve` leaves `CC_UNDEF` in `cr`. With `ATOMIC16` false (R52) a memory operand's low byte alone is
read here, after `cr` became `CC_UNDEF`; the last two clauses say what its second byte does. This two-step form, with what
stands in the state between the steps, is the model's reading of R52 (assumption 6). -/
def Obligations.CmpSetsOnlyCr : Prop :=
  (∀ w : DWord, wordOpc w = 0x07 → decode w = .ok (.cmp (wordFlags w) (wordRd w) (wordOpnd w))) ∧
    (∀ (m : ModeFlags) (rd : RegId) (opnd : Word) (s : State),
      (∀ raw c, RegForm m opnd 2 s raw → s.platform.atomic16 = true ∨ ¬SourceInMemory m →
        CompareFlags s.platform.cmpSwap raw (s.reg rd).toNat c →
        exec (.cmp m rd opnd) s = .next { s with cr := c }) ∧
      (∀ c, MemForm m opnd 2 → s.platform.atomic16 = true →
        CompareFlags s.platform.cmpSwap (s.reg rd).toNat
          ((s.readByte opnd.toNat).toNat + 256 * (s.readByte (opnd.toNat + 1)).toNat) c →
        exec (.cmp m rd opnd) s = .next { s with cr := c }) ∧
      (∀ raw, RegForm m opnd 2 s raw → s.platform.atomic16 = false → SourceInMemory m →
        exec (.cmp m rd opnd) s = .next { s with
          cr := 0x40, cpuAccess := some (.load opnd (s.readByte opnd.toNat) (.compareSource rd)) }) ∧
      (MemForm m opnd 2 → s.platform.atomic16 = false →
        exec (.cmp m rd opnd) s = .next { s with
          cr := 0x40, cpuAccess := some (.load opnd (s.readByte opnd.toNat) (.compareDest (s.reg rd))) }) ∧
      (∀ f, FormFaults m opnd 2 f →
        exec (.cmp m rd opnd) s = .next { s with cr := 0x40, cpuExc := s.cpuExc ||| f })) ∧
    ∀ (s : State) (a : Word) (low c : Byte),
      (∀ rd, CompareFlags s.platform.cmpSwap (low.toNat + 256 * (s.readByte (a.toNat + 1)).toNat) (s.reg rd).toNat c →
        s.finishAccess (.load a low (.compareSource rd)) = { s with cpuAccess := none, cr := c }) ∧
      (∀ v : Word, CompareFlags s.platform.cmpSwap v.toNat (low.toNat + 256 * (s.readByte (a.toNat + 1)).toNat) c →
        s.finishAccess (.load a low (.compareDest v)) = { s with cpuAccess := none, cr := c })

/-! ## Control transfer (44_control_transfer.md) -/

/-- R142 `jmp`: its words; `pc` becomes the target minus 4 mod 2^32, for an absolute and for a register target; a target
field from 16 to 255 raises InstructionFault. -/
def Obligations.JmpSetsPcFourBelowTarget : Prop :=
  (∀ w : DWord, wordOpc w = 0x06 → decode w = .ok (.jmp (wordOpnd w))) ∧
    ∀ (t : Word) (s : State),
      (∀ a, TargetIs t s a → exec (.jmp t) s = .next { s with pc := BitVec.ofInt 32 ((a : Int) - 4) }) ∧
      (15 < t.toNat → t.toNat < 0x0100 → exec (.jmp t) s = .next { s with cpuExc := s.cpuExc ||| 0x01 })

/-- R144 `breq`: its words; taken exactly when `cr` holds `CC_EQ` (bit 0); `cr` becomes `CC_UNDEF` either way; a bad target
raises InstructionFault and leaves `cr` and `pc`. -/
def Obligations.BreqBranchesOnEqual : Prop :=
  (∀ w : DWord, wordOpc w = 0x08 → decode w = .ok (.breq (wordOpnd w))) ∧
    ∀ (t : Word) (s : State),
      (∀ a, TargetIs t s a → s.cr.getLsbD 0 = true →
        exec (.breq t) s = .next { s with cr := 0x40, pc := BitVec.ofInt 32 ((a : Int) - 4) }) ∧
      (∀ a, TargetIs t s a → s.cr.getLsbD 0 = false → exec (.breq t) s = .next { s with cr := 0x40 }) ∧
      (15 < t.toNat → t.toNat < 0x0100 → exec (.breq t) s = .next { s with cpuExc := s.cpuExc ||| 0x01 })

/-- R145 `brneq`: as `breq`, with `CC_NEQ` (bit 1). -/
def Obligations.BrneqBranchesOnNotEqual : Prop :=
  (∀ w : DWord, wordOpc w = 0x09 → decode w = .ok (.brneq (wordOpnd w))) ∧
    ∀ (t : Word) (s : State),
      (∀ a, TargetIs t s a → s.cr.getLsbD 1 = true →
        exec (.brneq t) s = .next { s with cr := 0x40, pc := BitVec.ofInt 32 ((a : Int) - 4) }) ∧
      (∀ a, TargetIs t s a → s.cr.getLsbD 1 = false → exec (.brneq t) s = .next { s with cr := 0x40 }) ∧
      (15 < t.toNat → t.toNat < 0x0100 → exec (.brneq t) s = .next { s with cpuExc := s.cpuExc ||| 0x01 })

/-! ## System instructions (41_system.md) -/

/-- R110 `halt`: its words; `panic` becomes 1 and nothing else changes. -/
def Obligations.HaltSetsPanic : Prop :=
  (∀ w : DWord, wordOpc w = 0x00 → decode w = .ok .halt) ∧
    ∀ s : State, exec .halt s = .next { s with panic := true }

/-- R111 `nop`: its words; nothing changes. -/
def Obligations.NopChangesNothing : Prop :=
  (∀ w : DWord, wordOpc w = 0x01 → decode w = .ok .nop) ∧ ∀ s : State, exec .nop s = .next s

/-- R112 `stopc`: its words; the low 16 bits of `pc` into `rd`. -/
def Obligations.StopcStoresPc : Prop :=
  (∀ w : DWord, wordOpc w = 0x0A → decode w = .ok (.stopc (wordRd w))) ∧
    ∀ (rd : RegId) (s : State), exec (.stopc rd) s = .next (s.setReg rd (BitVec.ofNat 16 s.pc.toNat))

/-- R114 `rst`: its words; ProgramFault always, and nothing else. -/
def Obligations.RstRaisesProgramFault : Prop :=
  (∀ w : DWord, wordOpc w = 0x0B → decode w = .ok .rst) ∧
    ∀ s : State, exec .rst s = .next { s with cpuExc := s.cpuExc ||| 0x08 }

/-! ## Display-class instructions in the CPU (45_display_forwarding.md) -/

/-- R150, for `dimd`, `diclr`, `diwtrt`, `disetxy`, `dichar`, `diputpixel`: the six opcodes; with room in the queue the raw
word goes to its tail and nothing else changes; with 32 words queued DisplayFault, and the queue is unchanged. -/
def Obligations.DisplayWordsAreForwarded : Prop :=
  (∀ w : DWord, (0x10 ≤ (wordOpc w).toNat ∧ (wordOpc w).toNat ≤ 0x15) ↔ ∃ i, decode w = .ok i ∧ i.isDisplay = true) ∧
    ∀ (i : Instr) (s : State), i.isDisplay = true →
      (s.q.length ≠ 32 → exec i s = .next { s with q := s.q ++ [s.ir] }) ∧
      (s.q.length = 32 → exec i s = .next { s with cpuExc := s.cpuExc ||| 0x10 })

/-! ## Frames: what an instruction leaves unchanged -/

/-- `mov`, `movi`, `add`, `sub` with a register destination, `stopc` and `movmr` store nothing: every register but `rd`,
every byte of memory, `pc`, `cr`, `panic`, the queue and all other state is unchanged (R4, R11, R51). `cpu_exc` may gain a
fault bit; the CPU's access in progress may change only by `movi` with `ATOMIC16` false (R52, as the model reads it,
assumption 6). -/
def Obligations.RegisterDestinationFrame : Prop :=
  ∀ (i : Instr) (rd : RegId) (s t : State),
    (∃ m opnd, m.dm = false ∧ (i = .mov m rd opnd ∨ i = .movi m rd opnd ∨ i = .add m rd opnd ∨ i = .sub m rd opnd)) ∨
        i = .stopc rd ∨ (∃ rs, i = .movmr rd rs) →
      exec i s = .next t →
      (∀ r, r ≠ rd → t.reg r = s.reg r) ∧ s.sameBytes t ∧ t.pc = s.pc ∧ t.cr = s.cr ∧ t.panic = s.panic ∧ t.q = s.q ∧
        s.SameBeyondCpu t ∧
        (((∃ m opnd, i = .movi m rd opnd) ∧ s.platform.atomic16 = false) ∨ t.cpuAccess = s.cpuAccess)

/-- `mov`, `movi`, `add`, `sub` with a memory destination: every register, and every byte outside the 1 or 2 bytes from the
destination address on, is unchanged, with `pc`, `cr`, `panic`, the queue and all other state (R4, R11, R51), the CPU's access
in progress too but by `movi` with `ATOMIC16` false (R52, as the model reads it, assumption 6). -/
def Obligations.MemoryDestinationFrame : Prop :=
  ∀ (i : Instr) (m : ModeFlags) (rd : RegId) (opnd : Word) (s t : State), m.dr = false →
    exec i s = .next t →
    (i = .mov m rd opnd ∨ i = .add m rd opnd ∨ i = .sub m rd opnd →
      (∀ r, t.reg r = s.reg r) ∧ s.sameBytesOutside t opnd.toNat 1 ∧ t.pc = s.pc ∧ t.cr = s.cr ∧ t.panic = s.panic ∧
        t.q = s.q ∧ s.SameBeyondCpu t ∧ t.cpuAccess = s.cpuAccess) ∧
    (i = .movi m rd opnd →
      (∀ r, t.reg r = s.reg r) ∧ s.sameBytesOutside t opnd.toNat 2 ∧ t.pc = s.pc ∧ t.cr = s.cr ∧ t.panic = s.panic ∧
        t.q = s.q ∧ s.SameBeyondCpu t ∧ (s.platform.atomic16 = false ∨ t.cpuAccess = s.cpuAccess))

/-- `cmp`, `jmp`, `breq`, `brneq`, `halt`, `nop`, `rst` and the six display instructions, in the CPU, write no register and no
byte of memory; `cr` is unchanged but by `cmp`, `breq`, `brneq`, `pc` but by `jmp`, `breq`, `brneq`, `panic` but by `halt`,
the queue but by the display class, the CPU's access in progress but by `cmp` with `ATOMIC16` false (R11, R17, R51, and R52 as
the model reads it, assumption 6). -/
def Obligations.NoDestinationFrame : Prop :=
  ∀ (i : Instr) (s t : State),
    ((∃ m rd opnd, i = .cmp m rd opnd) ∨ (∃ a, i = .jmp a ∨ i = .breq a ∨ i = .brneq a) ∨ i = .halt ∨ i = .nop ∨ i = .rst ∨
        i.isDisplay = true) →
      exec i s = .next t →
      (∀ r, t.reg r = s.reg r) ∧ s.sameBytes t ∧ s.SameBeyondCpu t ∧
        ((∃ m rd opnd, i = .cmp m rd opnd) ∨ (∃ a, i = .breq a ∨ i = .brneq a) ∨ t.cr = s.cr) ∧
        ((∃ a, i = .jmp a ∨ i = .breq a ∨ i = .brneq a) ∨ t.pc = s.pc) ∧
        (i = .halt ∨ t.panic = s.panic) ∧ (i.isDisplay = true ∨ t.q = s.q) ∧
        (((∃ m rd opnd, i = .cmp m rd opnd) ∧ s.platform.atomic16 = false) ∨ t.cpuAccess = s.cpuAccess)

/-! ## Faults -/

/-- R209: CPU faults are precise. An instruction that raises one has written nothing (`cmp` nothing but `CC_UNDEF`), so `pc`
is still its address; and it raised exactly one fault (R207). -/
def Obligations.CpuFaultsArePrecise : Prop :=
  ∀ (i : Instr) (s t : State), s.cpuExc = 0 → exec i s = .next t → t.cpuExc ≠ 0 →
    ∃ f : ExcKind, (t = s.raise f ∨ ((∃ m rd opnd, i = .cmp m rd opnd) ∧ t = ({ s with cr := 0x40 } : State).raise f))

/-! ## The CPU cycle (40_cpu_cycle.md) -/

/-- A step runs the decoded instruction (R90, R92, R94, R95): on the CPU's turn, with no access in progress, `pc` + 4
fetchable and no fault pending, the step is the instruction's own effect at the state with `pc` advanced, the word in `ir`
and `cpu_exc` cleared, closed by the aggregation of the four fault fields; a word with an unrecognized opcode (R79) is
InstructionFault alone, aggregated. With `ATOMIC16` false an instruction may stop between the two bytes of a 16-bit access
(R52): that the cycle is then not closed, and that the CPU's next step makes the second byte, aggregates and closes it, is the
model's reading (assumption 6). -/
def Obligations.StepRunsDecodedInstruction : Prop :=
  ∀ s : State, s.resetHold = false → s.panic = false → s.nextTurn = .cpu →
    (s.cpuAccess = none → (s.pc + 4).toNat ≤ 65532 → s.exc = 0 →
      (∀ i : Instr, decode (s.readDWord (s.pc + 4).toNat) = .ok i →
        ∃ t, exec i { s with pc := s.pc + 4, ir := s.readDWord (s.pc + 4).toNat, cpuExc := 0, sched := s.sched.tail } =
            .next t ∧
          (t.cpuAccess = none → step s = .next t.aggregated) ∧ (t.cpuAccess ≠ none → step s = .next t)) ∧
      (∀ e : DecodeError, decode (s.readDWord (s.pc + 4).toNat) = .error e →
        step s = .next { s with
          pc := s.pc + 4
          ir := s.readDWord (s.pc + 4).toNat
          cpuExc := 0x01
          exc := 0x01 ||| s.vdcExc ||| s.ioExc ||| s.extExc
          panic := true
          sched := s.sched.tail })) ∧
    ∀ h : HalfAccess, s.cpuAccess = some h →
      step s = .next (({ s with sched := s.sched.tail } : State).finishAccess h).aggregated

/-- R91: fewer than four bytes left after the increment raise ProgramFault; nothing is fetched or executed, `ir` is
unchanged and `pc` keeps the incremented value. -/
def Obligations.StrayProgramRaisesProgramFault : Prop :=
  ∀ s : State, s.resetHold = false → s.panic = false → s.nextTurn = .cpu → s.cpuAccess = none →
    65532 < (s.pc + 4).toNat →
    step s = .next { s with
      pc := s.pc + 4
      cpuExc := s.cpuExc ||| 0x08
      exc := s.exc ||| (s.cpuExc ||| 0x08) ||| s.vdcExc ||| s.ioExc ||| s.extExc
      panic := true
      sched := s.sched.tail }

/-- R93: with a fault pending from an earlier cycle the word is fetched and nothing is decoded or executed; the cycle ends
with `panic`. -/
def Obligations.PendingFaultSkipsExecute : Prop :=
  ∀ s : State, s.resetHold = false → s.panic = false → s.nextTurn = .cpu → s.cpuAccess = none →
    (s.pc + 4).toNat ≤ 65532 → s.exc ≠ 0 →
    step s = .next { s with
      pc := s.pc + 4
      ir := s.readDWord (s.pc + 4).toNat
      exc := s.exc ||| s.cpuExc ||| s.vdcExc ||| s.ioExc ||| s.extExc
      panic := true
      sched := s.sched.tail }

/-- R95, R207, R212: every step of the CPU answers a next state. When it ends a cycle, `exc` holds every bit of the four
local fields and of the old `exc`, with `panic` set when that is not 0. With `ATOMIC16` false a step may end between the two
bytes of an access (R52): that nothing is aggregated then, and that the cycle's end is the CPU's next step, is the model's
reading (assumption 6). The peripherals' fields are read and not changed. -/
def Obligations.EveryCycleAggregatesFaults : Prop :=
  ∀ s : State, s.resetHold = false → s.panic = false → s.nextTurn = .cpu →
    ∃ t, step s = .next t ∧ t.vdcExc = s.vdcExc ∧ t.ioExc = s.ioExc ∧ t.extExc = s.extExc ∧
      (t.cpuAccess = none → t.exc = s.exc ||| t.cpuExc ||| s.vdcExc ||| s.ioExc ||| s.extExc ∧
        (t.exc ≠ 0 → t.panic = true)) ∧
      (t.cpuAccess ≠ none → s.cpuAccess = none ∧ s.platform.atomic16 = false ∧ t.exc = s.exc ∧ t.cpuExc = 0 ∧
        t.panic = false) ∧
      (s.cpuAccess = none → t.cpuExc ≠ 0 → t.pc = s.pc + 4)

/-- R98, R21: held at the reset barrier or stopped by `panic`, the CPU, the VDC, RENDER's start, IOIN and IOOUT take no step:
their turns change nothing but the schedule (an I/O agent between the two bytes of a 16-bit access completes it on a turn of
its own, IoinStoresTheInputValue and IooutSendsTheOutputCell; that a turn which is not enabled is consumed is the model's,
assumption 2). -/
def Obligations.StoppedAgentsTakeNoStep : Prop :=
  ∀ s : State, s.resetHold = true ∨ s.panic = true →
    (s.nextTurn = .cpu ∨ s.nextTurn = .vdc ∨ s.nextTurn = .renderStart ∨ (∃ v, s.nextTurn = .ioin v) ∨
      ∃ ok, s.nextTurn = .ioout ok) →
    step s = .next { s with sched := s.sched.tail }

/-- R43: no step of the CPU changes a byte of the read-only zone below `RW_START` = 0x00FE, whatever instruction it runs. The
invariant says that a store in progress was admitted (that a store can be in progress between two steps of the CPU is the
model's reading of R52, assumption 6). -/
def Obligations.CpuNeverWritesReadOnlyZone : Prop :=
  ∀ s t : State, s.Inv → s.nextTurn = .cpu → step s = .next t → ∀ a, a < 0x00FE → t.readByte a = s.readByte a

/-! ## The VDC (46_vdc.md) -/

/-- R161, R162, R163, R169: on its turn the VDC pops the oldest word and executes it; an empty queue changes nothing
(`diwait`); a `diwtrt` at the head with the adapter enabled and a retrace in flight holds it, and nothing is popped. -/
def Obligations.VdcPopsOldestWordUnlessHeld : Prop :=
  ∀ s : State, s.resetHold = false → s.panic = false → s.nextTurn = .vdc →
    (s.q = [] → step s = .next { s with sched := s.sched.tail }) ∧
    (∀ w rest i, s.q = w :: rest → decode w = .ok i →
      (i = .diwtrt ∧ s.vmode ≠ .off ∧ s.retrace = true → step s = .next { s with sched := s.sched.tail }) ∧
      (¬(i = .diwtrt ∧ s.vmode ≠ .off ∧ s.retrace = true) →
        step s = vdcExec i { s with q := rest, sched := s.sched.tail }))

/-- R167 `Clear()`: in a text mode exactly the H·V bytes from `FB_START` become 0x20, in mode 3 all 307200 pixels become 0;
nothing else changes. -/
def Obligations.ClearBlanksExactlyTheModesCells : Prop :=
  ∀ s : State,
    (∀ h rows, TextMode s.vmode h rows →
      s.clear = { s with mem := s.clear.mem } ∧
        ∀ a, s.clear.readByte a = if 0xF000 ≤ a ∧ a < 0xF000 + h * rows then 0x20 else s.readByte a) ∧
    (s.vmode = .pixel → s.clear = { s with pix := s.clear.pix } ∧ ∀ a, a < 307200 → readCell s.clear.pix a = 0)

/-- R165 `dimd`: its words; a valid mode byte sets the mode and clears; an invalid one, or a bad register index, raises
DisplayFault and changes nothing else. It runs while the adapter is disabled. -/
def Obligations.DimdSetsModeAndClears : Prop :=
  (∀ w : DWord, wordOpc w = 0x10 → decode w = .ok (.dimd (wordSR w) (wordSM w) (wordOpnd w))) ∧
  ∀ (sr sm : Bool) (opnd : Word) (s : State),
    (∀ b v, VdcByte sr sm opnd s b → ModeCode s.platform.hasPixel b v →
      vdcExec (.dimd sr sm opnd) s = .next (({ s with vmode := v } : State).clear)) ∧
    (∀ b, VdcByte sr sm opnd s b → (∀ v, ¬ModeCode s.platform.hasPixel b v) →
      vdcExec (.dimd sr sm opnd) s = .next { s with vdcExc := s.vdcExc ||| 0x10 }) ∧
    (sr = true → 15 < opnd.toNat → vdcExec (.dimd sr sm opnd) s = .next { s with vdcExc := s.vdcExc ||| 0x10 })

/-- R168 `diclr`: its words; DisplayFault while the adapter is disabled, otherwise the current mode's cells are cleared. -/
def Obligations.DiclrClearsTheScreen : Prop :=
  (∀ w : DWord, wordOpc w = 0x11 → decode w = .ok .diclr) ∧
  ∀ s : State,
    (s.vmode = .off → vdcExec .diclr s = .next { s with vdcExc := s.vdcExc ||| 0x10 }) ∧
    (s.vmode ≠ .off → vdcExec .diclr s = .next s.clear)

/-- R169 `diwtrt`: its words; at the head of the queue, with the adapter disabled it is popped with DisplayFault; with a
retrace in flight it holds the VDC and stays; otherwise it is popped with no other effect. -/
def Obligations.DiwtrtWaitsForRetrace : Prop :=
  (∀ w : DWord, wordOpc w = 0x12 → decode w = .ok .diwtrt) ∧
  ∀ (s : State) (w : DWord) (rest : List DWord), s.resetHold = false → s.panic = false → s.nextTurn = .vdc →
    s.q = w :: rest → wordOpc w = 0x12 →
    (s.vmode = .off → step s = .next { s with q := rest, vdcExc := s.vdcExc ||| 0x10, sched := s.sched.tail }) ∧
    (s.vmode ≠ .off → s.retrace = true → step s = .next { s with sched := s.sched.tail }) ∧
    (s.vmode ≠ .off → s.retrace = false → step s = .next { s with q := rest, sched := s.sched.tail })

/-- R170 `disetxy`: its words; the cursor from the two registers as they are now, when they lie in the current mode; DisplayFault and
an unchanged cursor for a disabled adapter, an index above 15 or a coordinate outside. -/
def Obligations.DisetxySetsCursorInBounds : Prop :=
  (∀ w : DWord, wordOpc w = 0x13 → decode w = .ok (.disetxy (wordRd w) (wordOpnd w))) ∧
  ∀ (rx : RegId) (ry : Word) (s : State),
    (s.vmode = .off → vdcExec (.disetxy rx ry) s = .next { s with vdcExc := s.vdcExc ||| 0x10 }) ∧
    (15 < ry.toNat → vdcExec (.disetxy rx ry) s = .next { s with vdcExc := s.vdcExc ||| 0x10 }) ∧
    (∀ h rows (hr : ry.toNat < 16), ModeSize s.vmode h rows →
      ((s.reg rx).toNat < h ∧ (s.reg ⟨ry.toNat, hr⟩).toNat < rows →
        vdcExec (.disetxy rx ry) s = .next { s with cx := s.reg rx, cy := s.reg ⟨ry.toNat, hr⟩ }) ∧
      (h ≤ (s.reg rx).toNat ∨ rows ≤ (s.reg ⟨ry.toNat, hr⟩).toNat →
        vdcExec (.disetxy rx ry) s = .next { s with vdcExc := s.vdcExc ||| 0x10 }))

/-- R172 `dichar`: its words; in a text mode with the cursor inside it, the source byte goes to the cursor's cell, which lies inside
the framebuffer, and nothing else changes; otherwise DisplayFault and nothing written. -/
def Obligations.DicharWritesTheCursorCell : Prop :=
  (∀ w : DWord, wordOpc w = 0x14 → decode w = .ok (.dichar (wordSR w) (wordSM w) (wordOpnd w))) ∧
  ∀ (sr sm : Bool) (opnd : Word) (s : State),
    (∀ b h rows, VdcByte sr sm opnd s b → TextMode s.vmode h rows → s.cx.toNat < h → s.cy.toNat < rows →
      s.cy.toNat * h + s.cx.toNat < h * rows ∧
        vdcExec (.dichar sr sm opnd) s =
          .next (s.writeBytes (0xF000 + (s.cy.toNat * h + s.cx.toNat)) [BitVec.ofNat 8 b])) ∧
    (s.vmode = .off ∨ s.vmode = .pixel ∨ (sr = true ∧ 15 < opnd.toNat) ∨
        (∃ h rows, TextMode s.vmode h rows ∧ (h ≤ s.cx.toNat ∨ rows ≤ s.cy.toNat)) →
      vdcExec (.dichar sr sm opnd) s = .next { s with vdcExc := s.vdcExc ||| 0x10 })

/-- R174 `diputpixel`: its words; in mode 3 with the cursor inside 640 × 480, the source byte goes to `PIX[cy·640 + cx]` and
nothing else changes; otherwise DisplayFault and nothing written. -/
def Obligations.DiputpixelWritesTheCursorPixel : Prop :=
  (∀ w : DWord, wordOpc w = 0x15 → decode w = .ok (.diputpixel (wordSR w) (wordSM w) (wordOpnd w))) ∧
  ∀ (sr sm : Bool) (opnd : Word) (s : State),
    (∀ b, VdcByte sr sm opnd s b → s.vmode = .pixel → s.cx.toNat < 640 → s.cy.toNat < 480 →
      ∃ t, vdcExec (.diputpixel sr sm opnd) s = .next t ∧ t = { s with pix := t.pix } ∧
        readCell t.pix (s.cy.toNat * 640 + s.cx.toNat) = BitVec.ofNat 8 b ∧
        ∀ a, a ≠ s.cy.toNat * 640 + s.cx.toNat → readCell t.pix a = readCell s.pix a) ∧
    (s.vmode ≠ .pixel ∨ (sr = true ∧ 15 < opnd.toNat) ∨ 640 ≤ s.cx.toNat ∨ 480 ≤ s.cy.toNat →
      vdcExec (.diputpixel sr sm opnd) s = .next { s with vdcExc := s.vdcExc ||| 0x10 })

/-- R160: the VDC writes only `vmode`, `cx`, `cy`, `vdc_exc`, the framebuffer and `PIX`, besides popping its queue: the
CPU's state and every byte outside the 2000 of the framebuffer stay, on every turn of the VDC. -/
def Obligations.VdcWritesOnlyItsOwnState : Prop :=
  ∀ s t : State, s.nextTurn = .vdc → step s = .next t →
    s.SameCpu t ∧ s.sameBytesOutside t 0xF000 2000 ∧
      t = { s with vmode := t.vmode, cx := t.cx, cy := t.cy, vdcExc := t.vdcExc, mem := t.mem, pix := t.pix, q := t.q,
                   sched := s.sched.tail } ∧
      (t.q = s.q ∨ ∃ w, s.q = w :: t.q)

/-! ## RENDER (46_vdc.md R180, R181) -/

/-- R180, R181: a start sets `retrace` when the adapter is enabled and no walk is in flight; a reading of a cell of
some mode records what it holds now and changes nothing else, and a number past those cells is not read, so no reading is at
or past `MEM_SIZE` (20_memory.md R40); a finish clears `retrace`, even after `panic`, and emits one frame: the mode in
force and its H·V cells, row-major, cell `i` from `FB_START + i` or `PIX[i]`. A cell not read earlier in the walk shows what
it holds at the finish, a cell read earlier the value of its latest reading (that the walk's readings are turns of their
own, `renderSample`, is the model's, assumption 15). -/
def Obligations.RenderEmitsTheFrame : Prop :=
  (∀ s : State, s.resetHold = false → s.panic = false → s.nextTurn = .renderStart → s.vmode ≠ .off → s.retrace = false →
    step s = .next { s with retrace := true, samples := [], sched := s.sched.tail }) ∧
  (∀ (s : State) (c : FbCell), s.nextTurn = .renderSample c →
    (s.retrace = true → CellOfSomeMode c →
      step s = .next { s with samples := (c, s.cellNow c) :: s.samples, sched := s.sched.tail }) ∧
    (s.retrace = false ∨ ¬CellOfSomeMode c → step s = .next { s with sched := s.sched.tail })) ∧
  (∀ (s : State) (i : Nat), s.cellNow (.text i) = s.readByte (0xF000 + i) ∧ s.cellNow (.pixel i) = readCell s.pix i) ∧
  (∀ s : State, s.nextTurn = .renderFinish → s.retrace = true →
    ∃ f : Frame, f.mode = s.vmode ∧ (∀ h rows, ModeSize s.vmode h rows → f.cells.length = h * rows) ∧
      step s = .next { s with retrace := false, samples := [], sink := s.sink ++ [f], sched := s.sched.tail } ∧
      ∀ (i h rows : Nat) (c : FbCell), ModeSize s.vmode h rows → i < h * rows →
        c = (if s.vmode = .pixel then .pixel i else .text i) →
        ((∀ p ∈ s.samples, p.1 ≠ c) → f.cells[i]? = some (s.cellNow c)) ∧
        (∀ (b : Byte) (older newer : List (FbCell × Byte)), s.samples = newer ++ (c, b) :: older →
          (∀ p ∈ newer, p.1 ≠ c) → f.cells[i]? = some b))

/-! ## The I/O port (47_ioport.md) -/

/-- R192: IOIN stores the next value mod 2^16 in `IO_IN`, low byte first, and changes nothing else; a broken stream sets
`EXC_IOPORT` in `io_exc` and writes nothing to RAM. With `ATOMIC16` false (R52) the low byte alone is stored, and the high
byte on IOIN's own finishing turn, after `panic` too (that the second byte is a turn of its own is the model's,
assumption 6). -/
def Obligations.IoinStoresTheInputValue : Prop :=
  (∀ s : State, s.resetHold = false → s.panic = false → s.ioinHigh = none →
    (∀ n, s.nextTurn = .ioin (some n) → s.platform.atomic16 = true →
      step s = .next (({ s with sched := s.sched.tail } : State).writeBytes 0x00FC
        [BitVec.ofNat 8 n, BitVec.ofNat 8 (n / 256)])) ∧
    (∀ n, s.nextTurn = .ioin (some n) → s.platform.atomic16 = false →
      step s = .next (({ s with ioinHigh := some (BitVec.ofNat 8 (n / 256)), sched := s.sched.tail } : State).writeBytes
        0x00FC [BitVec.ofNat 8 n])) ∧
    (s.nextTurn = .ioin none → step s = .next { s with ioExc := s.ioExc ||| 0x20, sched := s.sched.tail })) ∧
  ∀ (s : State) (high : Byte), s.nextTurn = .ioinFinish → s.ioinHigh = some high →
    step s = .next (({ s with ioinHigh := none, sched := s.sched.tail } : State).writeBytes 0x00FD [high])

/-- R193: IOOUT hands the 16-bit value of `IO_OUT` to the output stream and changes nothing else, so a second step sends the
same value again; a broken stream sets `EXC_IOPORT` instead. With `ATOMIC16` false (R52) the low byte alone is read, and the
high byte on IOOUT's own finishing turn, which hands the value over, after `panic` too (the turn is the model's,
assumption 6). -/
def Obligations.IooutSendsTheOutputCell : Prop :=
  (∀ s : State, s.resetHold = false → s.panic = false → s.iooutLow = none →
    (s.nextTurn = .ioout true → s.platform.atomic16 = true → ∃ v : Word,
      v.toNat = (s.readByte 0x00FE).toNat + 256 * (s.readByte 0x00FF).toNat ∧
        step s = .next { s with outStream := s.outStream ++ [v], sched := s.sched.tail }) ∧
    (s.nextTurn = .ioout true → s.platform.atomic16 = false →
      step s = .next { s with iooutLow := some (s.readByte 0x00FE), sched := s.sched.tail }) ∧
    (s.nextTurn = .ioout false → step s = .next { s with ioExc := s.ioExc ||| 0x20, sched := s.sched.tail })) ∧
  ∀ (s : State) (low : Byte), s.iooutLow = some low →
    (s.nextTurn = .iooutFinish true → ∃ v : Word, v.toNat = low.toNat + 256 * (s.readByte 0x00FF).toNat ∧
      step s = .next { s with iooutLow := none, outStream := s.outStream ++ [v], sched := s.sched.tail }) ∧
    (s.nextTurn = .iooutFinish false →
      step s = .next { s with iooutLow := none, ioExc := s.ioExc ||| 0x20, sched := s.sched.tail })

/-! ## Reset, boot and the HOST (70_reset_and_hazards.md) -/

/-- R230, R31: what the reset procedure leaves, for every platform whose images fit: every register, flag and fault field,
the VDC's state, and every byte of RAM, zero but for the two images. No 16-bit access is half done: those three fields are the
model's (assumption 6). -/
def Obligations.ResetProcedureLeavesTheResetState : Prop :=
  ∀ s t : State, s.platform.ok = true → t = s.resetProcedure →
    (∀ r, t.reg r = 0) ∧ t.pc = 0x000000FC ∧ t.cr = 0x40 ∧ t.ir = 0 ∧ t.exc = 0 ∧ t.cpuExc = 0 ∧ t.vdcExc = 0 ∧
      t.ioExc = 0 ∧ t.extExc = 0 ∧ t.panic = false ∧ t.resetHold = true ∧ t.vmode = .off ∧ t.q = [] ∧ t.cx = 0 ∧ t.cy = 0 ∧
      t.retrace = false ∧ t.cpuAccess = none ∧ t.ioinHigh = none ∧ t.iooutLow = none ∧
      ∀ a, t.readByte a =
        if 0x0100 ≤ a ∧ a < 0x0100 + s.platform.romImage.length then s.platform.romImage.getD (a - 0x0100) 0
        else if 0x0002 ≤ a ∧ a < 0x0002 + s.platform.bootText.length then s.platform.bootText.getD (a - 0x0002) 0
        else 0

/-- The state after reset is what the reset procedure leaves (R31), with the values the log names for what R31 leaves open
(the model's choice, assumptions 4, 7, 8). -/
def Obligations.ResetStateIsReset : Prop :=
  Machine.State.reset.resetProcedure = Machine.State.reset ∧ (∀ r, Machine.State.reset.reg r = 0) ∧
    (∀ a, Machine.State.reset.readByte a = 0) ∧ Machine.State.reset.pc = 0x000000FC ∧ Machine.State.reset.cr = 0x40 ∧
    Machine.State.reset.resetHold = true

/-- R234: the release clears `reset_hold` and nothing else, and the first CPU cycle after it fetches the first word of
`ROM_IMAGE` (with 0 for bytes past its end) at `ROM_START` = 0x0100 and runs it: two steps end where dispatching that word, at
the reset state with `pc` = 0x0100 and the word in `ir`, and closing the cycle end. That the turn after the release is the
CPU's when nothing is scheduled is the model's choice (assumption 1); that the cycle is left open, with nothing aggregated,
where the word stops between the two bytes of an access (R52, `ATOMIC16` false) is the model's reading (assumption 6). -/
def Obligations.ReleaseThenFirstFetchAtRomStart : Prop :=
  (∀ s : State, s.nextTurn = .release → step s = .next { s with resetHold := false, sched := s.sched.tail }) ∧
  (∀ (s t : State) (w : DWord), s.platform.ok = true →
    w = wordOfBytes (s.platform.romImage.getD 0 0) (s.platform.romImage.getD 1 0) (s.platform.romImage.getD 2 0)
      (s.platform.romImage.getD 3 0) →
    t = s.resetProcedure → t.nextTurn = .release → t.sched.tail = [] ∨ t.sched.tail.head? = some .cpu →
    ∃ u, dispatch { t with resetHold := false, pc := 0x00000100, ir := w, sched := t.sched.tail.tail } = .next u ∧
      u.ir = w ∧ Host.Core.run Sys2Proof.core 2 t = .next (if u.cpuAccess = none then u.aggregated else u))

/-- R236: after a run that ended with no fault or with a shutdown request there is no further step of the block; after any
other fault the HOST performs the reset procedure (soft reboot). That the HOST first waits for a render walk in flight, and
for an I/O agent between two bytes, is the model's reading (assumption 13). -/
def Obligations.EndOfRunStopsOrReboots : Prop :=
  ∀ s : State, s.nextTurn = .endOfRun → s.panic = true → s.resetHold = false → s.retrace = false →
    s.ioinHigh = none → s.iooutLow = none →
    (s.exc = 0 ∨ s.exc.getLsbD 6 = true → step s = .fault .finalStop) ∧
    (s.exc ≠ 0 → s.exc.getLsbD 6 = false → s.platform.ok = true →
      step s = .next ({ s with sched := s.sched.tail } : State).resetProcedure)

/-- R206, and the rejection of R238: the shutdown signal sets `EXC_SHUTDOWN` in `ext_exc` at any time while the barrier is
down, and an image whose magic or size is wrong sets `EXC_PRG` there; no byte of RAM and nothing else changes. (The model
rejects an image shorter than its header says too: assumption 9.) -/
def Obligations.HostFaultsEnterExtExc : Prop :=
  (∀ s : State, s.resetHold = false → s.nextTurn = .shutdown →
    step s = .next { s with extExc := s.extExc ||| 0x40, sched := s.sched.tail }) ∧
  (∀ (s : State) (m0 m1 m2 m3 z0 z1 z2 z3 : Byte) (reserved body : List Byte), reserved.length = 8 →
    s.resetHold = false → s.panic = false → s.load = none →
    s.nextTurn = .loadOpen (m0 :: m1 :: m2 :: m3 :: reserved ++ z0 :: z1 :: z2 :: z3 :: body) →
    (wordOfBytes m0 m1 m2 m3 ≠ s.platform.prgMagic ∨ 49152 < (wordOfBytes z0 z1 z2 z3).toNat) →
    step s = .next { s with extExc := s.extExc ||| 0x08, sched := s.sched.tail })

/-- R238, success: a valid image is copied byte by byte, in any order and through any schedule of the copy steps, into RAM
from `PRG_START` on, and then `PRG_LOADING` becomes 1; every other byte, and every other part of the state, is unchanged. That
the header reaches no byte of RAM is the model's choice (assumption 10); that a load is opened by one turn and copies a byte
a turn, one load at a time, is the model's too (assumption 9). -/
def Obligations.LoaderCopiesTheProgram : Prop :=
  ∀ (s : State) (m0 m1 m2 m3 z0 z1 z2 z3 : Byte) (reserved body : List Byte) (order : List Nat) (rest : List Turn),
    reserved.length = 8 → s.resetHold = false → s.panic = false → s.load = none →
    wordOfBytes m0 m1 m2 m3 = s.platform.prgMagic → (wordOfBytes z0 z1 z2 z3).toNat = body.length → body.length ≤ 49152 →
    order.length = body.length → (∀ (j : Nat) (hj : j < order.length), order[j] + j < body.length) →
    s.sched = .loadOpen (m0 :: m1 :: m2 :: m3 :: reserved ++ z0 :: z1 :: z2 :: z3 :: body) ::
      (order.map Turn.loadCopy ++ .loadDone :: rest) →
    ∃ t, Host.Core.run Sys2Proof.core (body.length + 2) s = .next t ∧
      t = { s with mem := t.mem, sched := rest } ∧
      ∀ a, t.readByte a =
        if a = 0x0001 then 1
        else if 0x4000 ≤ a ∧ a < 0x4000 + body.length then body.getD (a - 0x4000) 0
        else s.readByte a

/-! ## Whole-machine rules -/

/-- The invariant holds at reset. -/
def Obligations.InvariantHoldsAtReset : Prop := Machine.State.reset.Inv

/-- Every step of every agent keeps the invariant (R17, R18, R20, R27, R40, R93, R162 and the clauses of `State.Inv`), from
every state that meets it. The clauses on a half-done 16-bit access are on the model's reading of R52 (assumption 6). -/
def Obligations.EveryStepKeepsTheInvariant : Prop := ∀ s t : State, s.Inv → step s = .next t → t.Inv

/-- R162: under the invariant the VDC never meets a foreign word. -/
def Obligations.QueueNeverHoldsForeignWords : Prop := ∀ s : State, s.Inv → step s ≠ .fault .foreignQueueWord

/-- R18, R20, R21, R210: no step but the reset of a soft reboot clears a bit of `exc`, `vdc_exc`, `io_exc` or `ext_exc`, or
clears `panic`. -/
def Obligations.OnlyResetClearsFaults : Prop :=
  ∀ s t : State, step s = .next t → t = ({ s with sched := s.sched.tail } : State).resetProcedure ∨
    ((s.panic = true → t.panic = true) ∧ s.exc &&& t.exc = s.exc ∧ s.vdcExc &&& t.vdcExc = s.vdcExc ∧
      s.ioExc &&& t.ioExc = s.ioExc ∧ s.extExc &&& t.extExc = s.extExc)

/-- R10 ("Owned exclusively by the CPU actor" for writing), R18: no turn but the CPU's writes a register, `pc`, `cr`, `ir`,
`exc` or `cpu_exc`, or the CPU's access in progress (assumption 6), except the reset of a soft reboot. -/
def Obligations.OnlyTheCpuWritesCpuState : Prop :=
  ∀ s t : State, s.nextTurn ≠ .cpu → step s = .next t →
    s.SameCpu t ∨ (s.nextTurn = .endOfRun ∧ t = ({ s with sched := s.sched.tail } : State).resetProcedure)

/-- R42, R190: who changes a byte of the read-only zone. From a state that meets the invariant, a byte below 0x00FE changes
only by the reset of a soft reboot, by the HOST (`BOOT_STATUS` at 0, which is the model's choice, assumption 10, and
`PRG_LOADING` at 1) or by IOIN (`IO_IN`, whose second byte has a turn of its own with `ATOMIC16` false, assumption 6). -/
def Obligations.ReadOnlyZoneWriters : Prop :=
  ∀ s t : State, s.Inv → step s = .next t → ∀ a, a < 0x00FE → t.readByte a ≠ s.readByte a →
    s.nextTurn = .endOfRun ∨ (a = 0x0000 ∧ ∃ v, s.nextTurn = .bootStatus v) ∨ (a = 0x0001 ∧ s.nextTurn = .loadDone) ∨
      ((a = 0x00FC ∨ a = 0x00FD) ∧ ∃ n, s.nextTurn = .ioin (some n)) ∨ (a = 0x00FD ∧ s.nextTurn = .ioinFinish)

/-- R27, R56: the queue is first in, first out. A step leaves it, or appends the CPU's `ir` at the tail, or removes the head
on the VDC's turn, or it is emptied by the reset of a soft reboot. -/
def Obligations.QueueIsFifo : Prop :=
  ∀ s t : State, step s = .next t →
    t.q = s.q ∨ (s.nextTurn = .cpu ∧ t.q = s.q ++ [t.ir]) ∨ (s.nextTurn = .vdc ∧ ∃ w, s.q = w :: t.q) ∨
      (s.nextTurn = .endOfRun ∧ t.q = [])

/-- R56, R253: with no walk in flight, as many VDC turns as there are words queued drain the queue, and the CPU's state is
as it was. -/
def Obligations.VdcTurnsDrainTheQueue : Prop :=
  ∀ (s : State) (rest : List Turn), s.Inv → s.resetHold = false → s.panic = false → s.retrace = false →
    s.sched = List.replicate s.q.length .vdc ++ rest →
    ∃ t, Host.Core.run Sys2Proof.core s.q.length s = .next t ∧ t.q = [] ∧ t.sched = rest ∧ s.SameCpu t

/-- R22: no rule reads `debug_en` or `clk_div`. Two states that differ only in them take the same step, and differ only in
them after it; only the HOST's own turn writes them (when it may is the model's choice, assumption 8). -/
def Obligations.ControlFlagsAreNeverRead : Prop :=
  ∀ (s : State) (d : Bool) (c : Nat), (∀ d' c', s.nextTurn ≠ .control d' c') →
    step { s with debugEn := d, clkDiv := c } = mapNext (fun t => { t with debugEn := d, clkDiv := c }) (step s)

/-- No step changes the platform's parameters (R3: one configuration record, fixed for the machine). -/
def Obligations.PlatformNeverChanges : Prop := ∀ s t : State, step s = .next t → t.platform = s.platform

/-- §8's soft-reboot property (S8, R230, R236): a run that ended with ProgramFault alone, with nothing scheduled, goes in
two steps to the reset state, released, with every register 0 and `RAM` re-zeroed but for the images; a run that ended with
a shutdown request does not reboot. Whose turn it is with nothing scheduled is the model's choice (assumption 1), and that the
HOST waits for a render walk or an I/O agent under way is the model's reading (assumption 13). -/
def Obligations.ProgramFaultReboots : Prop :=
  ∀ s : State, s.sched = [] → s.panic = true → s.resetHold = false → s.retrace = false → s.ioinHigh = none →
    s.iooutLow = none → s.platform.ok = true →
    (s.exc = 0x08 → Host.Core.run Sys2Proof.core 2 s = .next { s.resetProcedure with resetHold := false }) ∧
    (s.exc.getLsbD 6 = true → ∀ k, Host.Core.run Sys2Proof.core (k + 1) s = .fault .finalStop)
end

