-- ==== Sys2Proof/Laws/Decode.lean ====
section
/-! SUPPORT. The laws of the encoding: what each field of a packed word reads as, and when a word decodes to an
instruction. -/

namespace Sys2Proof

/-- The opcode number of an instruction (spec/30_encoding.md R78). -/
def Instr.opcode : Instr → Byte
  | .halt => Config.opcHalt
  | .nop => Config.opcNop
  | .mov _ _ _ => Config.opcMov
  | .movi _ _ _ => Config.opcMovi
  | .add _ _ _ => Config.opcAdd
  | .sub _ _ _ => Config.opcSub
  | .jmp _ => Config.opcJmp
  | .cmp _ _ _ => Config.opcCmp
  | .breq _ => Config.opcBreq
  | .brneq _ => Config.opcBrneq
  | .stopc _ => Config.opcStopc
  | .rst => Config.opcRst
  | .movmr _ _ => Config.opcMovmr
  | .dimd _ _ _ => Config.opcDimd
  | .diclr => Config.opcDiclr
  | .diwtrt => Config.opcDiwtrt
  | .disetxy _ _ => Config.opcDisetxy
  | .dichar _ _ _ => Config.opcDichar
  | .diputpixel _ _ _ => Config.opcDiputpixel

/-- The instruction with the same mnemonic whose fields are those of a word. -/
def Instr.withFields (w : DWord) : Instr → Instr
  | .halt => .halt
  | .nop => .nop
  | .mov _ _ _ => .mov (wordFlags w) (wordRd w) (wordOpnd w)
  | .movi _ _ _ => .movi (wordFlags w) (wordRd w) (wordOpnd w)
  | .add _ _ _ => .add (wordFlags w) (wordRd w) (wordOpnd w)
  | .sub _ _ _ => .sub (wordFlags w) (wordRd w) (wordOpnd w)
  | .jmp _ => .jmp (wordOpnd w)
  | .cmp _ _ _ => .cmp (wordFlags w) (wordRd w) (wordOpnd w)
  | .breq _ => .breq (wordOpnd w)
  | .brneq _ => .brneq (wordOpnd w)
  | .stopc _ => .stopc (wordRd w)
  | .rst => .rst
  | .movmr _ _ => .movmr (wordRd w) (wordOpnd w)
  | .dimd _ _ _ => .dimd (wordSR w) (wordSM w) (wordOpnd w)
  | .diclr => .diclr
  | .diwtrt => .diwtrt
  | .disetxy _ _ => .disetxy (wordRd w) (wordOpnd w)
  | .dichar _ _ _ => .dichar (wordSR w) (wordSM w) (wordOpnd w)
  | .diputpixel _ _ _ => .diputpixel (wordSR w) (wordSM w) (wordOpnd w)

/-! ## When a word decodes -/

/-- One row of the decoder's chain: it answers its own instruction or goes on. -/
theorem decode_row {c : Prop} [Decidable c] {x i : Instr} {e : Except DecodeError Instr}
    (h : (if c then Except.ok x else e) = .ok i) : (c ∧ x = i) ∨ e = .ok i := by
  by_cases hc : c
  · rw [if_pos hc] at h
    injection h with h
    exact .inl ⟨hc, h⟩
  · rw [if_neg hc] at h
    exact .inr h

/-- What a decoded word says: its opcode byte and its fields. -/
theorem decode_inv {w : DWord} {i : Instr} (h : decode w = .ok i) : wordOpc w = i.opcode ∧ i.withFields w = i := by
  unfold decode at h
  iterate 19 (rcases decode_row h with ⟨ho, rfl⟩ | h; exact ⟨ho, rfl⟩)
  cases h

/-- A word with an instruction's opcode byte and fields decodes to it. -/
theorem decode_of_opcode {w : DWord} {i : Instr} (ho : wordOpc w = i.opcode) : decode w = .ok (i.withFields w) := by
  unfold decode
  rw [ho]
  cases i <;> rfl

/-- Decoding, said without the decoder. -/
theorem decode_eq_ok_iff (w : DWord) (i : Instr) : decode w = .ok i ↔ wordOpc w = i.opcode ∧ i.withFields w = i :=
  ⟨decode_inv, fun ⟨ho, hf⟩ => by rw [decode_of_opcode ho, hf]⟩

/-! ## The fields of a packed word -/

/-- Every bit of a packed word. -/
theorem packWord_getLsbD (opnd : Word) (sm sr dm dr : Bool) (rd : RegId) (opc : Byte) (i : Nat) :
    (packWord opnd sm sr dm dr rd opc).getLsbD i =
      if i < 8 then opc.getLsbD i
      else if i < 12 then (BitVec.ofFin (w := 4) rd).getLsbD (i - 8)
      else if i < 13 then dr
      else if i < 14 then dm
      else if i < 15 then sr
      else if i < 16 then sm
      else opnd.getLsbD (i - 16) := by
  unfold packWord
  simp only [BitVec.getLsbD_append, BitVec.getLsbD_ofBool]
  by_cases h8 : i < 8
  · simp [h8]
  by_cases h12 : i < 12
  · simp [h8, h12, show i - 8 < 4 by omega]
  by_cases h13 : i = 12
  · subst h13; simp
  by_cases h14 : i = 13
  · subst h14; simp
  by_cases h15 : i = 14
  · subst h15; simp
  by_cases h16 : i = 15
  · subst h16; simp
  simp [h8, h12, show ¬i < 13 by omega, show ¬i < 14 by omega, show ¬i < 15 by omega, show ¬i < 16 by omega,
    show ¬i - 8 < 4 by omega, show ¬i - 8 - 4 < 1 by omega, show ¬i - 8 - 4 - 1 < 1 by omega,
    show ¬i - 8 - 4 - 1 - 1 < 1 by omega, show ¬i - 8 - 4 - 1 - 1 - 1 < 1 by omega]
  congr 1

section
variable (opnd : Word) (sm sr dm dr : Bool) (rd : RegId) (opc : Byte)

@[simp] theorem wordOpc_packWord : wordOpc (packWord opnd sm sr dm dr rd opc) = opc := by
  apply BitVec.eq_of_getLsbD_eq
  intro i hi
  simp [wordOpc, packWord_getLsbD, hi]

@[simp] theorem wordRd_packWord : wordRd (packWord opnd sm sr dm dr rd opc) = rd := by
  have h : (packWord opnd sm sr dm dr rd opc).extractLsb' 8 4 = BitVec.ofFin (w := 4) rd := by
    apply BitVec.eq_of_getLsbD_eq
    intro i hi
    simp [packWord_getLsbD, hi, show 8 + i < 12 by omega]
  simp only [wordRd, h]

@[simp] theorem wordOpnd_packWord : wordOpnd (packWord opnd sm sr dm dr rd opc) = opnd := by
  apply BitVec.eq_of_getLsbD_eq
  intro i hi
  simp [wordOpnd, packWord_getLsbD, hi, show ¬16 + i < 8 by omega, show ¬16 + i < 12 by omega, show ¬16 + i < 13 by omega,
    show ¬16 + i < 14 by omega, show ¬16 + i < 15 by omega]

@[simp] theorem wordDR_packWord : wordDR (packWord opnd sm sr dm dr rd opc) = dr := by
  rw [wordDR, packWord_getLsbD]; rfl

@[simp] theorem wordDM_packWord : wordDM (packWord opnd sm sr dm dr rd opc) = dm := by
  rw [wordDM, packWord_getLsbD]; rfl

@[simp] theorem wordSR_packWord : wordSR (packWord opnd sm sr dm dr rd opc) = sr := by
  rw [wordSR, packWord_getLsbD]; rfl

@[simp] theorem wordSM_packWord : wordSM (packWord opnd sm sr dm dr rd opc) = sm := by
  rw [wordSM, packWord_getLsbD]; rfl

@[simp] theorem wordFlags_packWord : wordFlags (packWord opnd sm sr dm dr rd opc) = ⟨dr, dm, sr, sm⟩ := by
  simp [wordFlags]

end

/-- A word is its packed fields. -/
theorem packWord_fields (w : DWord) :
    packWord (wordOpnd w) (wordSM w) (wordSR w) (wordDM w) (wordDR w) (wordRd w) (wordOpc w) = w := by
  apply BitVec.eq_of_getLsbD_eq
  intro i hi
  rw [packWord_getLsbD]
  split_ifs with h8 h12 h13 h14 h15 h16
  · simp [wordOpc, h8]
  · have : BitVec.ofFin (w := 4) (wordRd w) = w.extractLsb' 8 4 := rfl
    rw [this, BitVec.getLsbD_extractLsb']
    simp [show i - 8 < 4 by omega, show 8 + (i - 8) = i by omega]
  · rw [show i = 12 by omega, wordDR]
  · rw [show i = 13 by omega, wordDM]
  · rw [show i = 14 by omega, wordSR]
  · rw [show i = 15 by omega, wordSM]
  · simp [wordOpnd, show i - 16 < 16 by omega, show 16 + (i - 16) = i by omega]

/-- The encoder writes an instruction's own opcode byte. -/
@[simp] theorem wordOpc_encode (i : Instr) : wordOpc (encode i) = i.opcode := by
  cases i <;> simp [encode, packA, Instr.opcode]

/-- No two rows of the opcode table share a number (30_encoding.md R78: "the nineteen numbers are distinct"). -/
theorem opcodes_distinct :
    [Config.opcHalt, Config.opcNop, Config.opcMov, Config.opcMovi, Config.opcAdd, Config.opcSub, Config.opcJmp, Config.opcCmp,
      Config.opcBreq, Config.opcBrneq, Config.opcStopc, Config.opcRst, Config.opcMovmr, Config.opcDimd, Config.opcDiclr,
      Config.opcDiwtrt, Config.opcDisetxy, Config.opcDichar, Config.opcDiputpixel].Nodup := by
  decide

end Sys2Proof
end

