-- ==== Sys2Proof/Laws/Memory.lean ====
section
/-! SUPPORT. The laws of a byte store: reading back what `blit` stored, every other byte as it was, and the canonical form
kept by every operation. -/

namespace Sys2Proof.Machine

@[simp] theorem readCell_nil (a : Nat) : readCell [] a = Config.unlistedByte := rfl

/-- A byte none of whose entries is listed reads as an unlisted byte. -/
theorem readCell_of_not_mem {m : List Host.Cell} {a : Nat} (h : ∀ c ∈ m, c.1 ≠ a) :
    readCell m a = Config.unlistedByte := by
  induction m with
  | nil => rfl
  | cons c t ih =>
    have hc : c.1 ≠ a := h c (by simp)
    simp only [readCell, if_neg hc]
    exact ih fun d hd => h d (by simp [hd])

theorem readCell_append (m n : List Host.Cell) (a : Nat) :
    readCell (m ++ n) a = if ∃ c ∈ m, c.1 = a then readCell m a else readCell n a := by
  induction m with
  | nil => simp
  | cons c t ih =>
    by_cases hc : c.1 = a
    · simp [readCell, hc]
    · simp [readCell, hc, ih]

/-- Filtering by address does not change what a kept address reads as. -/
theorem readCell_filter (m : List Host.Cell) (p : Nat → Bool) (a : Nat) :
    readCell (m.filter fun c => p c.1) a = if p a then readCell m a else Config.unlistedByte := by
  induction m with
  | nil => simp
  | cons c t ih =>
    by_cases hc : c.1 = a
    · subst hc
      by_cases hp : p c.1 <;> simp [readCell, hp, ih]
    · by_cases hp : p c.1 <;> simp [readCell, hc, hp, ih]

/-- Every entry of `cellsFrom base vs` lies in the bytes it stands for. -/
theorem cellsFrom_range {base : Nat} {vs : List Byte} {c : Host.Cell} (h : c ∈ cellsFrom base vs) :
    base ≤ c.1 ∧ c.1 < base + vs.length := by
  induction vs generalizing base with
  | nil => simp [cellsFrom] at h
  | cons v vs ih =>
    simp only [cellsFrom] at h
    split at h
    · have := ih h
      simp only [List.length_cons]
      omega
    · rcases List.mem_cons.1 h with rfl | h
      · simp
      · have := ih h
        simp only [List.length_cons]
        omega

theorem readCell_cellsFrom (base : Nat) (vs : List Byte) (a : Nat) :
    readCell (cellsFrom base vs) a =
      if h : base ≤ a ∧ a < base + vs.length then vs[a - base]'(by omega) else Config.unlistedByte := by
  induction vs generalizing base with
  | nil => simp [cellsFrom]
  | cons v vs ih =>
    simp only [cellsFrom, List.length_cons]
    by_cases ha : base = a
    · subst ha
      split
      · rename_i hv
        rw [ih]
        simp [hv]
      · simp [readCell]
    · have key : (if h : base + 1 ≤ a ∧ a < base + 1 + vs.length then vs[a - (base + 1)]'(by omega)
          else Config.unlistedByte) =
          if h : base ≤ a ∧ a < base + (vs.length + 1) then (v :: vs)[a - base]'(by simp only [List.length_cons]; omega)
          else Config.unlistedByte := by
        by_cases hr : base + 1 ≤ a ∧ a < base + 1 + vs.length
        · have hr' : base ≤ a ∧ a < base + (vs.length + 1) := by omega
          rw [dif_pos hr, dif_pos hr']
          have : a - base = (a - (base + 1)) + 1 := by omega
          simp [this]
        · have hr' : ¬(base ≤ a ∧ a < base + (vs.length + 1)) := by omega
          rw [dif_neg hr, dif_neg hr']
      split
      · rw [ih, key]
      · simp only [readCell, if_neg ha]
        rw [ih, key]

/-- What a byte reads as after `blit`: the stored byte inside the stored range, the old byte outside it. -/
theorem readCell_blit (m : List Host.Cell) (base : Nat) (vs : List Byte) (a : Nat) :
    readCell (blit m base vs) a =
      if h : base ≤ a ∧ a < base + vs.length then vs[a - base]'(by omega) else readCell m a := by
  have hlow : ∀ c ∈ m.filter (fun c => decide (c.1 < base)), c.1 < base := fun c hc => by simpa using (List.mem_filter.1 hc).2
  have hhigh : ∀ c ∈ m.filter (fun c => decide (base + vs.length ≤ c.1)), base + vs.length ≤ c.1 :=
    fun c hc => by simpa using (List.mem_filter.1 hc).2
  have flow := readCell_filter m (fun x => decide (x < base)) a
  have fhigh := readCell_filter m (fun x => decide (base + vs.length ≤ x)) a
  simp only [decide_eq_true_eq] at flow fhigh
  unfold blit
  by_cases hin : base ≤ a ∧ a < base + vs.length
  · rw [dif_pos hin, readCell_append, readCell_append, readCell_cellsFrom, dif_pos hin]
    have h1 : ¬∃ c ∈ m.filter (fun c => decide (c.1 < base)), c.1 = a := by
      rintro ⟨c, hc, rfl⟩
      have := hlow c hc
      omega
    rw [if_neg h1]
    split
    · rfl
    · rename_i hnot
      -- the byte is not listed, so it is the unlisted byte
      have hnone : ∀ c ∈ cellsFrom base vs, c.1 ≠ a := by
        intro c hc hca
        exact hnot ⟨c, List.mem_append.2 (.inr hc), hca⟩
      have hv := readCell_of_not_mem hnone
      rw [readCell_cellsFrom, dif_pos hin] at hv
      rw [hv]
      exact readCell_of_not_mem fun c hc hca => by
        have := hhigh c hc
        omega
  · rw [dif_neg hin, readCell_append, readCell_append]
    have h2 : ¬∃ c ∈ cellsFrom base vs, c.1 = a := by
      rintro ⟨c, hc, rfl⟩
      exact hin (cellsFrom_range hc)
    by_cases ha : a < base
    · have hmid : readCell (cellsFrom base vs) a = Config.unlistedByte := by rw [readCell_cellsFrom, dif_neg hin]
      rw [if_pos ha] at flow
      rw [if_neg (by omega : ¬base + vs.length ≤ a)] at fhigh
      split
      · split
        · exact flow
        · rename_i hl
          rw [hmid]
          rw [← flow]
          exact (readCell_of_not_mem fun c hc hca => hl ⟨c, hc, hca⟩).symm
      · rename_i hl
        rw [fhigh, ← flow]
        exact (readCell_of_not_mem fun c hc hca => hl ⟨c, List.mem_append.2 (.inl hc), hca⟩).symm
    · rw [if_pos (by omega : base + vs.length ≤ a)] at fhigh
      have h1 : ¬∃ c ∈ m.filter (fun c => decide (c.1 < base)) ++ cellsFrom base vs, c.1 = a := by
        rintro ⟨c, hc, hca⟩
        rcases List.mem_append.1 hc with hc | hc
        · have := hlow c hc
          omega
        · exact h2 ⟨c, hc, hca⟩
      rw [if_neg h1, fhigh]

theorem cellsFrom_replicate_unlisted (base n : Nat) :
    cellsFrom base (List.replicate n Config.unlistedByte) = [] := by
  induction n generalizing base with
  | zero => rfl
  | succ n ih => simp [List.replicate_succ, cellsFrom, ih]

/-- `fillCells` stores `n` copies of a byte. -/
theorem fillCells_eq_blit (m : List Host.Cell) (base n : Nat) (v : Byte) :
    fillCells m base n v = blit m base (List.replicate n v) := by
  unfold fillCells blit
  split
  · rename_i hv
    subst hv
    simp [cellsFrom_replicate_unlisted]
  · simp

/-- What a byte reads as after `fillCells`. -/
theorem readCell_fillCells (m : List Host.Cell) (base n : Nat) (v : Byte) (a : Nat) :
    readCell (fillCells m base n v) a = if base ≤ a ∧ a < base + n then v else readCell m a := by
  rw [fillCells_eq_blit, readCell_blit]
  simp only [List.length_replicate]
  by_cases h : base ≤ a ∧ a < base + n <;> simp [h]

/-! ## The canonical form -/

/-- The canonical form, said without recursion. -/
theorem wfFrom_iff (bound lo : Nat) (m : List Host.Cell) :
    Memory.wfFrom bound lo m = true ↔
      m.Pairwise (fun c d => c.1 < d.1) ∧ ∀ c ∈ m, lo ≤ c.1 ∧ c.1 < bound ∧ c.2 ≠ Config.unlistedByte := by
  induction m generalizing lo with
  | nil => simp [Memory.wfFrom]
  | cons c t ih =>
    obtain ⟨a, v⟩ := c
    simp only [Memory.wfFrom, Bool.and_eq_true, decide_eq_true_eq, ih, List.pairwise_cons, List.mem_cons, forall_eq_or_imp]
    constructor
    · rintro ⟨⟨⟨h1, h2⟩, h3⟩, h4, h5⟩
      exact ⟨⟨fun d hd => by have := h5 d hd; omega, h4⟩, ⟨h1, h2, h3⟩,
        fun d hd => ⟨by have := h5 d hd; omega, (h5 d hd).2⟩⟩
    · rintro ⟨⟨h1, h2⟩, ⟨h3, h4, h5⟩, h6⟩
      exact ⟨⟨⟨h3, h4⟩, h5⟩, h2, fun d hd => ⟨by have := h1 d hd; omega, (h6 d hd).2⟩⟩

theorem wf_iff (bound : Nat) (m : List Host.Cell) :
    Memory.wf bound m = true ↔
      m.Pairwise (fun c d => c.1 < d.1) ∧ ∀ c ∈ m, c.1 < bound ∧ c.2 ≠ Config.unlistedByte := by
  simp [Memory.wf, wfFrom_iff]

theorem cellsFrom_wfFrom {bound base : Nat} {vs : List Byte} (h : base + vs.length ≤ bound) :
    Memory.wfFrom bound base (cellsFrom base vs) = true := by
  induction vs generalizing base with
  | nil => rfl
  | cons v vs ih =>
    simp only [List.length_cons] at h
    have h' : Memory.wfFrom bound (base + 1) (cellsFrom (base + 1) vs) = true := ih (by omega)
    simp only [cellsFrom]
    split
    · rw [wfFrom_iff] at h' ⊢
      exact ⟨h'.1, fun c hc => ⟨by have := h'.2 c hc; omega, (h'.2 c hc).2⟩⟩
    · rename_i hv
      simp only [Memory.wfFrom, h', Bool.and_true, Bool.and_eq_true, decide_eq_true_eq]
      exact ⟨⟨le_refl _, by omega⟩, hv⟩

/-- `blit` inside the store keeps the canonical form. -/
theorem blit_wf {bound base : Nat} {m : List Host.Cell} {vs : List Byte} (hm : Memory.wf bound m = true)
    (h : base + vs.length ≤ bound) : Memory.wf bound (blit m base vs) = true := by
  rw [wf_iff] at hm ⊢
  obtain ⟨hp, hb⟩ := hm
  have hc := cellsFrom_wfFrom (vs := vs) h
  rw [wfFrom_iff] at hc
  refine ⟨?_, ?_⟩
  · unfold blit
    rw [List.pairwise_append, List.pairwise_append]
    refine ⟨⟨hp.filter _, hc.1, ?_⟩, hp.filter _, ?_⟩
    · intro a ha b hb'
      have h1 : a.1 < base := by simpa using (List.mem_filter.1 ha).2
      have h2 := (cellsFrom_range hb').1
      omega
    · intro a ha b hb'
      have h2 : base + vs.length ≤ b.1 := by simpa using (List.mem_filter.1 hb').2
      rcases List.mem_append.1 ha with ha | ha
      · have h1 : a.1 < base := by simpa using (List.mem_filter.1 ha).2
        omega
      · have h1 := (cellsFrom_range ha).2
        omega
  · intro c hc'
    unfold blit at hc'
    rcases List.mem_append.1 hc' with hc' | hc'
    · rcases List.mem_append.1 hc' with hc' | hc'
      · exact hb c (List.mem_filter.1 hc').1
      · exact ⟨(hc.2 c hc').2.1, (hc.2 c hc').2.2⟩
    · exact hb c (List.mem_filter.1 hc').1

/-- `fillCells` inside the store keeps the canonical form. -/
theorem fillCells_wf {bound base n : Nat} {m : List Host.Cell} {v : Byte} (hm : Memory.wf bound m = true)
    (h : base + n ≤ bound) : Memory.wf bound (fillCells m base n v) = true := by
  rw [fillCells_eq_blit]
  exact blit_wf hm (by simpa using h)

/-- In canonical form, stores that read alike are equal. -/
theorem eq_of_readCell_eq {bound : Nat} {m n : List Host.Cell} (hm : Memory.wf bound m = true) (hn : Memory.wf bound n = true)
    (h : ∀ a, readCell m a = readCell n a) : m = n := by
  rw [wf_iff] at hm hn
  induction m generalizing n with
  | nil =>
    cases n with
    | nil => rfl
    | cons d n =>
      have := h d.1
      simp only [readCell, if_true] at this
      exact absurd this.symm (hn.2 d (by simp)).2
  | cons c m ih =>
    cases n with
    | nil =>
      have := h c.1
      simp only [readCell, if_true] at this
      exact absurd this (hm.2 c (by simp)).2
    | cons d n =>
      have hcm := List.pairwise_cons.1 hm.1
      have hdn := List.pairwise_cons.1 hn.1
      have hread : ∀ (x y : Host.Cell) (l : List Host.Cell), (∀ z ∈ l, y.1 < z.1) → x.1 < y.1 →
          readCell (y :: l) x.1 = Config.unlistedByte := by
        intro x y l hl hxy
        exact readCell_of_not_mem fun z hz => by
          rcases List.mem_cons.1 hz with rfl | hz
          · omega
          · have := hl z hz
            omega
      have hkey : c.1 = d.1 := by
        rcases Nat.lt_trichotomy c.1 d.1 with hlt | heq | hgt
        · have h1 := h c.1
          rw [hread c d n hdn.1 hlt] at h1
          simp only [readCell, if_true] at h1
          exact absurd h1 (hm.2 c (by simp)).2
        · exact heq
        · have h1 := h d.1
          rw [hread d c m hcm.1 hgt] at h1
          simp only [readCell, if_true] at h1
          exact absurd h1.symm (hn.2 d (by simp)).2
      have hval : c.2 = d.2 := by
        have h1 := h c.1
        simpa [readCell, hkey] using h1
      have htail : m = n := by
        refine ih ⟨hcm.2, fun z hz => hm.2 z (by simp [hz])⟩ ⟨hdn.2, fun z hz => hn.2 z (by simp [hz])⟩ fun a => ?_
        by_cases ha : c.1 = a
        · subst ha
          rw [readCell_of_not_mem (fun z hz => by have := hcm.1 z hz; omega),
            readCell_of_not_mem (fun z hz => by have := hdn.1 z hz; omega)]
        · have h1 := h a
          simpa [readCell, ha, ← hkey] using h1
      obtain ⟨c1, c2⟩ := c
      obtain ⟨d1, d2⟩ := d
      simp only at hkey hval
      rw [hkey, hval, htail]

end Sys2Proof.Machine
end

