-- ==== Sys2Proof/Laws/State.lean ====
section
/-! SUPPORT. What each update of the state leaves in each field: one lemma per field per update, so that no proof unfolds a
record update. -/

namespace Sys2Proof.Machine

/-! ## `setReg` -/

@[simp] theorem State.setReg_regs (s : State) (r : RegId) (v : Word) : (s.setReg r v).regs = s.regs.set r v := rfl
@[simp] theorem State.setReg_pc (s : State) (r : RegId) (v : Word) : (s.setReg r v).pc = s.pc := rfl
@[simp] theorem State.setReg_cr (s : State) (r : RegId) (v : Word) : (s.setReg r v).cr = s.cr := rfl
@[simp] theorem State.setReg_ir (s : State) (r : RegId) (v : Word) : (s.setReg r v).ir = s.ir := rfl
@[simp] theorem State.setReg_exc (s : State) (r : RegId) (v : Word) : (s.setReg r v).exc = s.exc := rfl
@[simp] theorem State.setReg_cpuExc (s : State) (r : RegId) (v : Word) : (s.setReg r v).cpuExc = s.cpuExc := rfl
@[simp] theorem State.setReg_vdcExc (s : State) (r : RegId) (v : Word) : (s.setReg r v).vdcExc = s.vdcExc := rfl
@[simp] theorem State.setReg_ioExc (s : State) (r : RegId) (v : Word) : (s.setReg r v).ioExc = s.ioExc := rfl
@[simp] theorem State.setReg_extExc (s : State) (r : RegId) (v : Word) : (s.setReg r v).extExc = s.extExc := rfl
@[simp] theorem State.setReg_panic (s : State) (r : RegId) (v : Word) : (s.setReg r v).panic = s.panic := rfl
@[simp] theorem State.setReg_resetHold (s : State) (r : RegId) (v : Word) : (s.setReg r v).resetHold = s.resetHold := rfl
@[simp] theorem State.setReg_debugEn (s : State) (r : RegId) (v : Word) : (s.setReg r v).debugEn = s.debugEn := rfl
@[simp] theorem State.setReg_clkDiv (s : State) (r : RegId) (v : Word) : (s.setReg r v).clkDiv = s.clkDiv := rfl
@[simp] theorem State.setReg_mem (s : State) (r : RegId) (v : Word) : (s.setReg r v).mem = s.mem := rfl
@[simp] theorem State.setReg_pix (s : State) (r : RegId) (v : Word) : (s.setReg r v).pix = s.pix := rfl
@[simp] theorem State.setReg_vmode (s : State) (r : RegId) (v : Word) : (s.setReg r v).vmode = s.vmode := rfl
@[simp] theorem State.setReg_cx (s : State) (r : RegId) (v : Word) : (s.setReg r v).cx = s.cx := rfl
@[simp] theorem State.setReg_cy (s : State) (r : RegId) (v : Word) : (s.setReg r v).cy = s.cy := rfl
@[simp] theorem State.setReg_retrace (s : State) (r : RegId) (v : Word) : (s.setReg r v).retrace = s.retrace := rfl
@[simp] theorem State.setReg_q (s : State) (r : RegId) (v : Word) : (s.setReg r v).q = s.q := rfl
@[simp] theorem State.setReg_cpuAccess (s : State) (r : RegId) (v : Word) : (s.setReg r v).cpuAccess = s.cpuAccess := rfl
@[simp] theorem State.setReg_ioinHigh (s : State) (r : RegId) (v : Word) : (s.setReg r v).ioinHigh = s.ioinHigh := rfl
@[simp] theorem State.setReg_iooutLow (s : State) (r : RegId) (v : Word) : (s.setReg r v).iooutLow = s.iooutLow := rfl
@[simp] theorem State.setReg_platform (s : State) (r : RegId) (v : Word) : (s.setReg r v).platform = s.platform := rfl
@[simp] theorem State.setReg_outStream (s : State) (r : RegId) (v : Word) : (s.setReg r v).outStream = s.outStream := rfl
@[simp] theorem State.setReg_sink (s : State) (r : RegId) (v : Word) : (s.setReg r v).sink = s.sink := rfl
@[simp] theorem State.setReg_samples (s : State) (r : RegId) (v : Word) : (s.setReg r v).samples = s.samples := rfl
@[simp] theorem State.setReg_load (s : State) (r : RegId) (v : Word) : (s.setReg r v).load = s.load := rfl
@[simp] theorem State.setReg_sched (s : State) (r : RegId) (v : Word) : (s.setReg r v).sched = s.sched := rfl

/-! ## `writeBytes` -/

@[simp] theorem State.writeBytes_regs (s : State) (a : Nat) (vs : List Byte) : (s.writeBytes a vs).regs = s.regs := rfl
@[simp] theorem State.writeBytes_pc (s : State) (a : Nat) (vs : List Byte) : (s.writeBytes a vs).pc = s.pc := rfl
@[simp] theorem State.writeBytes_cr (s : State) (a : Nat) (vs : List Byte) : (s.writeBytes a vs).cr = s.cr := rfl
@[simp] theorem State.writeBytes_ir (s : State) (a : Nat) (vs : List Byte) : (s.writeBytes a vs).ir = s.ir := rfl
@[simp] theorem State.writeBytes_exc (s : State) (a : Nat) (vs : List Byte) : (s.writeBytes a vs).exc = s.exc := rfl
@[simp] theorem State.writeBytes_cpuExc (s : State) (a : Nat) (vs : List Byte) : (s.writeBytes a vs).cpuExc = s.cpuExc := rfl
@[simp] theorem State.writeBytes_vdcExc (s : State) (a : Nat) (vs : List Byte) : (s.writeBytes a vs).vdcExc = s.vdcExc := rfl
@[simp] theorem State.writeBytes_ioExc (s : State) (a : Nat) (vs : List Byte) : (s.writeBytes a vs).ioExc = s.ioExc := rfl
@[simp] theorem State.writeBytes_extExc (s : State) (a : Nat) (vs : List Byte) : (s.writeBytes a vs).extExc = s.extExc := rfl
@[simp] theorem State.writeBytes_panic (s : State) (a : Nat) (vs : List Byte) : (s.writeBytes a vs).panic = s.panic := rfl
@[simp] theorem State.writeBytes_resetHold (s : State) (a : Nat) (vs : List Byte) : (s.writeBytes a vs).resetHold = s.resetHold := rfl
@[simp] theorem State.writeBytes_debugEn (s : State) (a : Nat) (vs : List Byte) : (s.writeBytes a vs).debugEn = s.debugEn := rfl
@[simp] theorem State.writeBytes_clkDiv (s : State) (a : Nat) (vs : List Byte) : (s.writeBytes a vs).clkDiv = s.clkDiv := rfl
@[simp] theorem State.writeBytes_mem (s : State) (a : Nat) (vs : List Byte) : (s.writeBytes a vs).mem = blit s.mem a vs := rfl
@[simp] theorem State.writeBytes_pix (s : State) (a : Nat) (vs : List Byte) : (s.writeBytes a vs).pix = s.pix := rfl
@[simp] theorem State.writeBytes_vmode (s : State) (a : Nat) (vs : List Byte) : (s.writeBytes a vs).vmode = s.vmode := rfl
@[simp] theorem State.writeBytes_cx (s : State) (a : Nat) (vs : List Byte) : (s.writeBytes a vs).cx = s.cx := rfl
@[simp] theorem State.writeBytes_cy (s : State) (a : Nat) (vs : List Byte) : (s.writeBytes a vs).cy = s.cy := rfl
@[simp] theorem State.writeBytes_retrace (s : State) (a : Nat) (vs : List Byte) : (s.writeBytes a vs).retrace = s.retrace := rfl
@[simp] theorem State.writeBytes_q (s : State) (a : Nat) (vs : List Byte) : (s.writeBytes a vs).q = s.q := rfl
@[simp] theorem State.writeBytes_cpuAccess (s : State) (a : Nat) (vs : List Byte) : (s.writeBytes a vs).cpuAccess = s.cpuAccess := rfl
@[simp] theorem State.writeBytes_ioinHigh (s : State) (a : Nat) (vs : List Byte) : (s.writeBytes a vs).ioinHigh = s.ioinHigh := rfl
@[simp] theorem State.writeBytes_iooutLow (s : State) (a : Nat) (vs : List Byte) : (s.writeBytes a vs).iooutLow = s.iooutLow := rfl
@[simp] theorem State.writeBytes_platform (s : State) (a : Nat) (vs : List Byte) : (s.writeBytes a vs).platform = s.platform := rfl
@[simp] theorem State.writeBytes_outStream (s : State) (a : Nat) (vs : List Byte) : (s.writeBytes a vs).outStream = s.outStream := rfl
@[simp] theorem State.writeBytes_sink (s : State) (a : Nat) (vs : List Byte) : (s.writeBytes a vs).sink = s.sink := rfl
@[simp] theorem State.writeBytes_samples (s : State) (a : Nat) (vs : List Byte) : (s.writeBytes a vs).samples = s.samples := rfl
@[simp] theorem State.writeBytes_load (s : State) (a : Nat) (vs : List Byte) : (s.writeBytes a vs).load = s.load := rfl
@[simp] theorem State.writeBytes_sched (s : State) (a : Nat) (vs : List Byte) : (s.writeBytes a vs).sched = s.sched := rfl

/-! ## `memWrite` -/

@[simp] theorem State.memWrite_regs (s : State) (w : Width) (a : Nat) (v : Word) : (s.memWrite w a v).regs = s.regs := rfl
@[simp] theorem State.memWrite_pc (s : State) (w : Width) (a : Nat) (v : Word) : (s.memWrite w a v).pc = s.pc := rfl
@[simp] theorem State.memWrite_cr (s : State) (w : Width) (a : Nat) (v : Word) : (s.memWrite w a v).cr = s.cr := rfl
@[simp] theorem State.memWrite_ir (s : State) (w : Width) (a : Nat) (v : Word) : (s.memWrite w a v).ir = s.ir := rfl
@[simp] theorem State.memWrite_exc (s : State) (w : Width) (a : Nat) (v : Word) : (s.memWrite w a v).exc = s.exc := rfl
@[simp] theorem State.memWrite_cpuExc (s : State) (w : Width) (a : Nat) (v : Word) : (s.memWrite w a v).cpuExc = s.cpuExc := rfl
@[simp] theorem State.memWrite_vdcExc (s : State) (w : Width) (a : Nat) (v : Word) : (s.memWrite w a v).vdcExc = s.vdcExc := rfl
@[simp] theorem State.memWrite_ioExc (s : State) (w : Width) (a : Nat) (v : Word) : (s.memWrite w a v).ioExc = s.ioExc := rfl
@[simp] theorem State.memWrite_extExc (s : State) (w : Width) (a : Nat) (v : Word) : (s.memWrite w a v).extExc = s.extExc := rfl
@[simp] theorem State.memWrite_panic (s : State) (w : Width) (a : Nat) (v : Word) : (s.memWrite w a v).panic = s.panic := rfl
@[simp] theorem State.memWrite_resetHold (s : State) (w : Width) (a : Nat) (v : Word) : (s.memWrite w a v).resetHold = s.resetHold := rfl
@[simp] theorem State.memWrite_debugEn (s : State) (w : Width) (a : Nat) (v : Word) : (s.memWrite w a v).debugEn = s.debugEn := rfl
@[simp] theorem State.memWrite_clkDiv (s : State) (w : Width) (a : Nat) (v : Word) : (s.memWrite w a v).clkDiv = s.clkDiv := rfl
@[simp] theorem State.memWrite_mem (s : State) (w : Width) (a : Nat) (v : Word) : (s.memWrite w a v).mem = blit s.mem a (storedBytes w v) := rfl
@[simp] theorem State.memWrite_pix (s : State) (w : Width) (a : Nat) (v : Word) : (s.memWrite w a v).pix = s.pix := rfl
@[simp] theorem State.memWrite_vmode (s : State) (w : Width) (a : Nat) (v : Word) : (s.memWrite w a v).vmode = s.vmode := rfl
@[simp] theorem State.memWrite_cx (s : State) (w : Width) (a : Nat) (v : Word) : (s.memWrite w a v).cx = s.cx := rfl
@[simp] theorem State.memWrite_cy (s : State) (w : Width) (a : Nat) (v : Word) : (s.memWrite w a v).cy = s.cy := rfl
@[simp] theorem State.memWrite_retrace (s : State) (w : Width) (a : Nat) (v : Word) : (s.memWrite w a v).retrace = s.retrace := rfl
@[simp] theorem State.memWrite_q (s : State) (w : Width) (a : Nat) (v : Word) : (s.memWrite w a v).q = s.q := rfl
@[simp] theorem State.memWrite_cpuAccess (s : State) (w : Width) (a : Nat) (v : Word) : (s.memWrite w a v).cpuAccess = s.cpuAccess := rfl
@[simp] theorem State.memWrite_ioinHigh (s : State) (w : Width) (a : Nat) (v : Word) : (s.memWrite w a v).ioinHigh = s.ioinHigh := rfl
@[simp] theorem State.memWrite_iooutLow (s : State) (w : Width) (a : Nat) (v : Word) : (s.memWrite w a v).iooutLow = s.iooutLow := rfl
@[simp] theorem State.memWrite_platform (s : State) (w : Width) (a : Nat) (v : Word) : (s.memWrite w a v).platform = s.platform := rfl
@[simp] theorem State.memWrite_outStream (s : State) (w : Width) (a : Nat) (v : Word) : (s.memWrite w a v).outStream = s.outStream := rfl
@[simp] theorem State.memWrite_sink (s : State) (w : Width) (a : Nat) (v : Word) : (s.memWrite w a v).sink = s.sink := rfl
@[simp] theorem State.memWrite_samples (s : State) (w : Width) (a : Nat) (v : Word) : (s.memWrite w a v).samples = s.samples := rfl
@[simp] theorem State.memWrite_load (s : State) (w : Width) (a : Nat) (v : Word) : (s.memWrite w a v).load = s.load := rfl
@[simp] theorem State.memWrite_sched (s : State) (w : Width) (a : Nat) (v : Word) : (s.memWrite w a v).sched = s.sched := rfl

/-! ## `setCr` -/

@[simp] theorem State.setCr_regs (s : State) (v : Byte) : (s.setCr v).regs = s.regs := rfl
@[simp] theorem State.setCr_pc (s : State) (v : Byte) : (s.setCr v).pc = s.pc := rfl
@[simp] theorem State.setCr_cr (s : State) (v : Byte) : (s.setCr v).cr = v := rfl
@[simp] theorem State.setCr_ir (s : State) (v : Byte) : (s.setCr v).ir = s.ir := rfl
@[simp] theorem State.setCr_exc (s : State) (v : Byte) : (s.setCr v).exc = s.exc := rfl
@[simp] theorem State.setCr_cpuExc (s : State) (v : Byte) : (s.setCr v).cpuExc = s.cpuExc := rfl
@[simp] theorem State.setCr_vdcExc (s : State) (v : Byte) : (s.setCr v).vdcExc = s.vdcExc := rfl
@[simp] theorem State.setCr_ioExc (s : State) (v : Byte) : (s.setCr v).ioExc = s.ioExc := rfl
@[simp] theorem State.setCr_extExc (s : State) (v : Byte) : (s.setCr v).extExc = s.extExc := rfl
@[simp] theorem State.setCr_panic (s : State) (v : Byte) : (s.setCr v).panic = s.panic := rfl
@[simp] theorem State.setCr_resetHold (s : State) (v : Byte) : (s.setCr v).resetHold = s.resetHold := rfl
@[simp] theorem State.setCr_debugEn (s : State) (v : Byte) : (s.setCr v).debugEn = s.debugEn := rfl
@[simp] theorem State.setCr_clkDiv (s : State) (v : Byte) : (s.setCr v).clkDiv = s.clkDiv := rfl
@[simp] theorem State.setCr_mem (s : State) (v : Byte) : (s.setCr v).mem = s.mem := rfl
@[simp] theorem State.setCr_pix (s : State) (v : Byte) : (s.setCr v).pix = s.pix := rfl
@[simp] theorem State.setCr_vmode (s : State) (v : Byte) : (s.setCr v).vmode = s.vmode := rfl
@[simp] theorem State.setCr_cx (s : State) (v : Byte) : (s.setCr v).cx = s.cx := rfl
@[simp] theorem State.setCr_cy (s : State) (v : Byte) : (s.setCr v).cy = s.cy := rfl
@[simp] theorem State.setCr_retrace (s : State) (v : Byte) : (s.setCr v).retrace = s.retrace := rfl
@[simp] theorem State.setCr_q (s : State) (v : Byte) : (s.setCr v).q = s.q := rfl
@[simp] theorem State.setCr_cpuAccess (s : State) (v : Byte) : (s.setCr v).cpuAccess = s.cpuAccess := rfl
@[simp] theorem State.setCr_ioinHigh (s : State) (v : Byte) : (s.setCr v).ioinHigh = s.ioinHigh := rfl
@[simp] theorem State.setCr_iooutLow (s : State) (v : Byte) : (s.setCr v).iooutLow = s.iooutLow := rfl
@[simp] theorem State.setCr_platform (s : State) (v : Byte) : (s.setCr v).platform = s.platform := rfl
@[simp] theorem State.setCr_outStream (s : State) (v : Byte) : (s.setCr v).outStream = s.outStream := rfl
@[simp] theorem State.setCr_sink (s : State) (v : Byte) : (s.setCr v).sink = s.sink := rfl
@[simp] theorem State.setCr_samples (s : State) (v : Byte) : (s.setCr v).samples = s.samples := rfl
@[simp] theorem State.setCr_load (s : State) (v : Byte) : (s.setCr v).load = s.load := rfl
@[simp] theorem State.setCr_sched (s : State) (v : Byte) : (s.setCr v).sched = s.sched := rfl

/-! ## `setCompare` -/

@[simp] theorem State.setCompare_regs (s : State) (v dv : Word) : (s.setCompare v dv).regs = s.regs := rfl
@[simp] theorem State.setCompare_pc (s : State) (v dv : Word) : (s.setCompare v dv).pc = s.pc := rfl
@[simp] theorem State.setCompare_cr (s : State) (v dv : Word) : (s.setCompare v dv).cr = flagsOfDelta (cmpDelta s.platform.cmpSwap v dv) := rfl
@[simp] theorem State.setCompare_ir (s : State) (v dv : Word) : (s.setCompare v dv).ir = s.ir := rfl
@[simp] theorem State.setCompare_exc (s : State) (v dv : Word) : (s.setCompare v dv).exc = s.exc := rfl
@[simp] theorem State.setCompare_cpuExc (s : State) (v dv : Word) : (s.setCompare v dv).cpuExc = s.cpuExc := rfl
@[simp] theorem State.setCompare_vdcExc (s : State) (v dv : Word) : (s.setCompare v dv).vdcExc = s.vdcExc := rfl
@[simp] theorem State.setCompare_ioExc (s : State) (v dv : Word) : (s.setCompare v dv).ioExc = s.ioExc := rfl
@[simp] theorem State.setCompare_extExc (s : State) (v dv : Word) : (s.setCompare v dv).extExc = s.extExc := rfl
@[simp] theorem State.setCompare_panic (s : State) (v dv : Word) : (s.setCompare v dv).panic = s.panic := rfl
@[simp] theorem State.setCompare_resetHold (s : State) (v dv : Word) : (s.setCompare v dv).resetHold = s.resetHold := rfl
@[simp] theorem State.setCompare_debugEn (s : State) (v dv : Word) : (s.setCompare v dv).debugEn = s.debugEn := rfl
@[simp] theorem State.setCompare_clkDiv (s : State) (v dv : Word) : (s.setCompare v dv).clkDiv = s.clkDiv := rfl
@[simp] theorem State.setCompare_mem (s : State) (v dv : Word) : (s.setCompare v dv).mem = s.mem := rfl
@[simp] theorem State.setCompare_pix (s : State) (v dv : Word) : (s.setCompare v dv).pix = s.pix := rfl
@[simp] theorem State.setCompare_vmode (s : State) (v dv : Word) : (s.setCompare v dv).vmode = s.vmode := rfl
@[simp] theorem State.setCompare_cx (s : State) (v dv : Word) : (s.setCompare v dv).cx = s.cx := rfl
@[simp] theorem State.setCompare_cy (s : State) (v dv : Word) : (s.setCompare v dv).cy = s.cy := rfl
@[simp] theorem State.setCompare_retrace (s : State) (v dv : Word) : (s.setCompare v dv).retrace = s.retrace := rfl
@[simp] theorem State.setCompare_q (s : State) (v dv : Word) : (s.setCompare v dv).q = s.q := rfl
@[simp] theorem State.setCompare_cpuAccess (s : State) (v dv : Word) : (s.setCompare v dv).cpuAccess = s.cpuAccess := rfl
@[simp] theorem State.setCompare_ioinHigh (s : State) (v dv : Word) : (s.setCompare v dv).ioinHigh = s.ioinHigh := rfl
@[simp] theorem State.setCompare_iooutLow (s : State) (v dv : Word) : (s.setCompare v dv).iooutLow = s.iooutLow := rfl
@[simp] theorem State.setCompare_platform (s : State) (v dv : Word) : (s.setCompare v dv).platform = s.platform := rfl
@[simp] theorem State.setCompare_outStream (s : State) (v dv : Word) : (s.setCompare v dv).outStream = s.outStream := rfl
@[simp] theorem State.setCompare_sink (s : State) (v dv : Word) : (s.setCompare v dv).sink = s.sink := rfl
@[simp] theorem State.setCompare_samples (s : State) (v dv : Word) : (s.setCompare v dv).samples = s.samples := rfl
@[simp] theorem State.setCompare_load (s : State) (v dv : Word) : (s.setCompare v dv).load = s.load := rfl
@[simp] theorem State.setCompare_sched (s : State) (v dv : Word) : (s.setCompare v dv).sched = s.sched := rfl

/-! ## `send` -/

@[simp] theorem State.send_regs (s : State) (v : Word) : (s.send v).regs = s.regs := rfl
@[simp] theorem State.send_pc (s : State) (v : Word) : (s.send v).pc = s.pc := rfl
@[simp] theorem State.send_cr (s : State) (v : Word) : (s.send v).cr = s.cr := rfl
@[simp] theorem State.send_ir (s : State) (v : Word) : (s.send v).ir = s.ir := rfl
@[simp] theorem State.send_exc (s : State) (v : Word) : (s.send v).exc = s.exc := rfl
@[simp] theorem State.send_cpuExc (s : State) (v : Word) : (s.send v).cpuExc = s.cpuExc := rfl
@[simp] theorem State.send_vdcExc (s : State) (v : Word) : (s.send v).vdcExc = s.vdcExc := rfl
@[simp] theorem State.send_ioExc (s : State) (v : Word) : (s.send v).ioExc = s.ioExc := rfl
@[simp] theorem State.send_extExc (s : State) (v : Word) : (s.send v).extExc = s.extExc := rfl
@[simp] theorem State.send_panic (s : State) (v : Word) : (s.send v).panic = s.panic := rfl
@[simp] theorem State.send_resetHold (s : State) (v : Word) : (s.send v).resetHold = s.resetHold := rfl
@[simp] theorem State.send_debugEn (s : State) (v : Word) : (s.send v).debugEn = s.debugEn := rfl
@[simp] theorem State.send_clkDiv (s : State) (v : Word) : (s.send v).clkDiv = s.clkDiv := rfl
@[simp] theorem State.send_mem (s : State) (v : Word) : (s.send v).mem = s.mem := rfl
@[simp] theorem State.send_pix (s : State) (v : Word) : (s.send v).pix = s.pix := rfl
@[simp] theorem State.send_vmode (s : State) (v : Word) : (s.send v).vmode = s.vmode := rfl
@[simp] theorem State.send_cx (s : State) (v : Word) : (s.send v).cx = s.cx := rfl
@[simp] theorem State.send_cy (s : State) (v : Word) : (s.send v).cy = s.cy := rfl
@[simp] theorem State.send_retrace (s : State) (v : Word) : (s.send v).retrace = s.retrace := rfl
@[simp] theorem State.send_q (s : State) (v : Word) : (s.send v).q = s.q := rfl
@[simp] theorem State.send_cpuAccess (s : State) (v : Word) : (s.send v).cpuAccess = s.cpuAccess := rfl
@[simp] theorem State.send_ioinHigh (s : State) (v : Word) : (s.send v).ioinHigh = s.ioinHigh := rfl
@[simp] theorem State.send_iooutLow (s : State) (v : Word) : (s.send v).iooutLow = s.iooutLow := rfl
@[simp] theorem State.send_platform (s : State) (v : Word) : (s.send v).platform = s.platform := rfl
@[simp] theorem State.send_outStream (s : State) (v : Word) : (s.send v).outStream = s.outStream ++ [v] := rfl
@[simp] theorem State.send_sink (s : State) (v : Word) : (s.send v).sink = s.sink := rfl
@[simp] theorem State.send_samples (s : State) (v : Word) : (s.send v).samples = s.samples := rfl
@[simp] theorem State.send_load (s : State) (v : Word) : (s.send v).load = s.load := rfl
@[simp] theorem State.send_sched (s : State) (v : Word) : (s.send v).sched = s.sched := rfl

/-! ## `raise` -/

@[simp] theorem State.raise_regs (s : State) (f : ExcKind) : (s.raise f).regs = s.regs := rfl
@[simp] theorem State.raise_pc (s : State) (f : ExcKind) : (s.raise f).pc = s.pc := rfl
@[simp] theorem State.raise_cr (s : State) (f : ExcKind) : (s.raise f).cr = s.cr := rfl
@[simp] theorem State.raise_ir (s : State) (f : ExcKind) : (s.raise f).ir = s.ir := rfl
@[simp] theorem State.raise_exc (s : State) (f : ExcKind) : (s.raise f).exc = s.exc := rfl
@[simp] theorem State.raise_cpuExc (s : State) (f : ExcKind) : (s.raise f).cpuExc = s.cpuExc ||| f.bit := rfl
@[simp] theorem State.raise_vdcExc (s : State) (f : ExcKind) : (s.raise f).vdcExc = s.vdcExc := rfl
@[simp] theorem State.raise_ioExc (s : State) (f : ExcKind) : (s.raise f).ioExc = s.ioExc := rfl
@[simp] theorem State.raise_extExc (s : State) (f : ExcKind) : (s.raise f).extExc = s.extExc := rfl
@[simp] theorem State.raise_panic (s : State) (f : ExcKind) : (s.raise f).panic = s.panic := rfl
@[simp] theorem State.raise_resetHold (s : State) (f : ExcKind) : (s.raise f).resetHold = s.resetHold := rfl
@[simp] theorem State.raise_debugEn (s : State) (f : ExcKind) : (s.raise f).debugEn = s.debugEn := rfl
@[simp] theorem State.raise_clkDiv (s : State) (f : ExcKind) : (s.raise f).clkDiv = s.clkDiv := rfl
@[simp] theorem State.raise_mem (s : State) (f : ExcKind) : (s.raise f).mem = s.mem := rfl
@[simp] theorem State.raise_pix (s : State) (f : ExcKind) : (s.raise f).pix = s.pix := rfl
@[simp] theorem State.raise_vmode (s : State) (f : ExcKind) : (s.raise f).vmode = s.vmode := rfl
@[simp] theorem State.raise_cx (s : State) (f : ExcKind) : (s.raise f).cx = s.cx := rfl
@[simp] theorem State.raise_cy (s : State) (f : ExcKind) : (s.raise f).cy = s.cy := rfl
@[simp] theorem State.raise_retrace (s : State) (f : ExcKind) : (s.raise f).retrace = s.retrace := rfl
@[simp] theorem State.raise_q (s : State) (f : ExcKind) : (s.raise f).q = s.q := rfl
@[simp] theorem State.raise_cpuAccess (s : State) (f : ExcKind) : (s.raise f).cpuAccess = s.cpuAccess := rfl
@[simp] theorem State.raise_ioinHigh (s : State) (f : ExcKind) : (s.raise f).ioinHigh = s.ioinHigh := rfl
@[simp] theorem State.raise_iooutLow (s : State) (f : ExcKind) : (s.raise f).iooutLow = s.iooutLow := rfl
@[simp] theorem State.raise_platform (s : State) (f : ExcKind) : (s.raise f).platform = s.platform := rfl
@[simp] theorem State.raise_outStream (s : State) (f : ExcKind) : (s.raise f).outStream = s.outStream := rfl
@[simp] theorem State.raise_sink (s : State) (f : ExcKind) : (s.raise f).sink = s.sink := rfl
@[simp] theorem State.raise_samples (s : State) (f : ExcKind) : (s.raise f).samples = s.samples := rfl
@[simp] theorem State.raise_load (s : State) (f : ExcKind) : (s.raise f).load = s.load := rfl
@[simp] theorem State.raise_sched (s : State) (f : ExcKind) : (s.raise f).sched = s.sched := rfl

/-! ## `raiseVdc` -/

@[simp] theorem State.raiseVdc_regs (s : State) : s.raiseVdc.regs = s.regs := rfl
@[simp] theorem State.raiseVdc_pc (s : State) : s.raiseVdc.pc = s.pc := rfl
@[simp] theorem State.raiseVdc_cr (s : State) : s.raiseVdc.cr = s.cr := rfl
@[simp] theorem State.raiseVdc_ir (s : State) : s.raiseVdc.ir = s.ir := rfl
@[simp] theorem State.raiseVdc_exc (s : State) : s.raiseVdc.exc = s.exc := rfl
@[simp] theorem State.raiseVdc_cpuExc (s : State) : s.raiseVdc.cpuExc = s.cpuExc := rfl
@[simp] theorem State.raiseVdc_vdcExc (s : State) : s.raiseVdc.vdcExc = s.vdcExc ||| Config.excDisplay := rfl
@[simp] theorem State.raiseVdc_ioExc (s : State) : s.raiseVdc.ioExc = s.ioExc := rfl
@[simp] theorem State.raiseVdc_extExc (s : State) : s.raiseVdc.extExc = s.extExc := rfl
@[simp] theorem State.raiseVdc_panic (s : State) : s.raiseVdc.panic = s.panic := rfl
@[simp] theorem State.raiseVdc_resetHold (s : State) : s.raiseVdc.resetHold = s.resetHold := rfl
@[simp] theorem State.raiseVdc_debugEn (s : State) : s.raiseVdc.debugEn = s.debugEn := rfl
@[simp] theorem State.raiseVdc_clkDiv (s : State) : s.raiseVdc.clkDiv = s.clkDiv := rfl
@[simp] theorem State.raiseVdc_mem (s : State) : s.raiseVdc.mem = s.mem := rfl
@[simp] theorem State.raiseVdc_pix (s : State) : s.raiseVdc.pix = s.pix := rfl
@[simp] theorem State.raiseVdc_vmode (s : State) : s.raiseVdc.vmode = s.vmode := rfl
@[simp] theorem State.raiseVdc_cx (s : State) : s.raiseVdc.cx = s.cx := rfl
@[simp] theorem State.raiseVdc_cy (s : State) : s.raiseVdc.cy = s.cy := rfl
@[simp] theorem State.raiseVdc_retrace (s : State) : s.raiseVdc.retrace = s.retrace := rfl
@[simp] theorem State.raiseVdc_q (s : State) : s.raiseVdc.q = s.q := rfl
@[simp] theorem State.raiseVdc_cpuAccess (s : State) : s.raiseVdc.cpuAccess = s.cpuAccess := rfl
@[simp] theorem State.raiseVdc_ioinHigh (s : State) : s.raiseVdc.ioinHigh = s.ioinHigh := rfl
@[simp] theorem State.raiseVdc_iooutLow (s : State) : s.raiseVdc.iooutLow = s.iooutLow := rfl
@[simp] theorem State.raiseVdc_platform (s : State) : s.raiseVdc.platform = s.platform := rfl
@[simp] theorem State.raiseVdc_outStream (s : State) : s.raiseVdc.outStream = s.outStream := rfl
@[simp] theorem State.raiseVdc_sink (s : State) : s.raiseVdc.sink = s.sink := rfl
@[simp] theorem State.raiseVdc_samples (s : State) : s.raiseVdc.samples = s.samples := rfl
@[simp] theorem State.raiseVdc_load (s : State) : s.raiseVdc.load = s.load := rfl
@[simp] theorem State.raiseVdc_sched (s : State) : s.raiseVdc.sched = s.sched := rfl

/-! ## `raiseIo` -/

@[simp] theorem State.raiseIo_regs (s : State) : s.raiseIo.regs = s.regs := rfl
@[simp] theorem State.raiseIo_pc (s : State) : s.raiseIo.pc = s.pc := rfl
@[simp] theorem State.raiseIo_cr (s : State) : s.raiseIo.cr = s.cr := rfl
@[simp] theorem State.raiseIo_ir (s : State) : s.raiseIo.ir = s.ir := rfl
@[simp] theorem State.raiseIo_exc (s : State) : s.raiseIo.exc = s.exc := rfl
@[simp] theorem State.raiseIo_cpuExc (s : State) : s.raiseIo.cpuExc = s.cpuExc := rfl
@[simp] theorem State.raiseIo_vdcExc (s : State) : s.raiseIo.vdcExc = s.vdcExc := rfl
@[simp] theorem State.raiseIo_ioExc (s : State) : s.raiseIo.ioExc = s.ioExc ||| Config.excIoport := rfl
@[simp] theorem State.raiseIo_extExc (s : State) : s.raiseIo.extExc = s.extExc := rfl
@[simp] theorem State.raiseIo_panic (s : State) : s.raiseIo.panic = s.panic := rfl
@[simp] theorem State.raiseIo_resetHold (s : State) : s.raiseIo.resetHold = s.resetHold := rfl
@[simp] theorem State.raiseIo_debugEn (s : State) : s.raiseIo.debugEn = s.debugEn := rfl
@[simp] theorem State.raiseIo_clkDiv (s : State) : s.raiseIo.clkDiv = s.clkDiv := rfl
@[simp] theorem State.raiseIo_mem (s : State) : s.raiseIo.mem = s.mem := rfl
@[simp] theorem State.raiseIo_pix (s : State) : s.raiseIo.pix = s.pix := rfl
@[simp] theorem State.raiseIo_vmode (s : State) : s.raiseIo.vmode = s.vmode := rfl
@[simp] theorem State.raiseIo_cx (s : State) : s.raiseIo.cx = s.cx := rfl
@[simp] theorem State.raiseIo_cy (s : State) : s.raiseIo.cy = s.cy := rfl
@[simp] theorem State.raiseIo_retrace (s : State) : s.raiseIo.retrace = s.retrace := rfl
@[simp] theorem State.raiseIo_q (s : State) : s.raiseIo.q = s.q := rfl
@[simp] theorem State.raiseIo_cpuAccess (s : State) : s.raiseIo.cpuAccess = s.cpuAccess := rfl
@[simp] theorem State.raiseIo_ioinHigh (s : State) : s.raiseIo.ioinHigh = s.ioinHigh := rfl
@[simp] theorem State.raiseIo_iooutLow (s : State) : s.raiseIo.iooutLow = s.iooutLow := rfl
@[simp] theorem State.raiseIo_platform (s : State) : s.raiseIo.platform = s.platform := rfl
@[simp] theorem State.raiseIo_outStream (s : State) : s.raiseIo.outStream = s.outStream := rfl
@[simp] theorem State.raiseIo_sink (s : State) : s.raiseIo.sink = s.sink := rfl
@[simp] theorem State.raiseIo_samples (s : State) : s.raiseIo.samples = s.samples := rfl
@[simp] theorem State.raiseIo_load (s : State) : s.raiseIo.load = s.load := rfl
@[simp] theorem State.raiseIo_sched (s : State) : s.raiseIo.sched = s.sched := rfl

/-! ## `raiseExt` -/

@[simp] theorem State.raiseExt_regs (s : State) (f : ExcKind) : (s.raiseExt f).regs = s.regs := rfl
@[simp] theorem State.raiseExt_pc (s : State) (f : ExcKind) : (s.raiseExt f).pc = s.pc := rfl
@[simp] theorem State.raiseExt_cr (s : State) (f : ExcKind) : (s.raiseExt f).cr = s.cr := rfl
@[simp] theorem State.raiseExt_ir (s : State) (f : ExcKind) : (s.raiseExt f).ir = s.ir := rfl
@[simp] theorem State.raiseExt_exc (s : State) (f : ExcKind) : (s.raiseExt f).exc = s.exc := rfl
@[simp] theorem State.raiseExt_cpuExc (s : State) (f : ExcKind) : (s.raiseExt f).cpuExc = s.cpuExc := rfl
@[simp] theorem State.raiseExt_vdcExc (s : State) (f : ExcKind) : (s.raiseExt f).vdcExc = s.vdcExc := rfl
@[simp] theorem State.raiseExt_ioExc (s : State) (f : ExcKind) : (s.raiseExt f).ioExc = s.ioExc := rfl
@[simp] theorem State.raiseExt_extExc (s : State) (f : ExcKind) : (s.raiseExt f).extExc = s.extExc ||| f.bit := rfl
@[simp] theorem State.raiseExt_panic (s : State) (f : ExcKind) : (s.raiseExt f).panic = s.panic := rfl
@[simp] theorem State.raiseExt_resetHold (s : State) (f : ExcKind) : (s.raiseExt f).resetHold = s.resetHold := rfl
@[simp] theorem State.raiseExt_debugEn (s : State) (f : ExcKind) : (s.raiseExt f).debugEn = s.debugEn := rfl
@[simp] theorem State.raiseExt_clkDiv (s : State) (f : ExcKind) : (s.raiseExt f).clkDiv = s.clkDiv := rfl
@[simp] theorem State.raiseExt_mem (s : State) (f : ExcKind) : (s.raiseExt f).mem = s.mem := rfl
@[simp] theorem State.raiseExt_pix (s : State) (f : ExcKind) : (s.raiseExt f).pix = s.pix := rfl
@[simp] theorem State.raiseExt_vmode (s : State) (f : ExcKind) : (s.raiseExt f).vmode = s.vmode := rfl
@[simp] theorem State.raiseExt_cx (s : State) (f : ExcKind) : (s.raiseExt f).cx = s.cx := rfl
@[simp] theorem State.raiseExt_cy (s : State) (f : ExcKind) : (s.raiseExt f).cy = s.cy := rfl
@[simp] theorem State.raiseExt_retrace (s : State) (f : ExcKind) : (s.raiseExt f).retrace = s.retrace := rfl
@[simp] theorem State.raiseExt_q (s : State) (f : ExcKind) : (s.raiseExt f).q = s.q := rfl
@[simp] theorem State.raiseExt_cpuAccess (s : State) (f : ExcKind) : (s.raiseExt f).cpuAccess = s.cpuAccess := rfl
@[simp] theorem State.raiseExt_ioinHigh (s : State) (f : ExcKind) : (s.raiseExt f).ioinHigh = s.ioinHigh := rfl
@[simp] theorem State.raiseExt_iooutLow (s : State) (f : ExcKind) : (s.raiseExt f).iooutLow = s.iooutLow := rfl
@[simp] theorem State.raiseExt_platform (s : State) (f : ExcKind) : (s.raiseExt f).platform = s.platform := rfl
@[simp] theorem State.raiseExt_outStream (s : State) (f : ExcKind) : (s.raiseExt f).outStream = s.outStream := rfl
@[simp] theorem State.raiseExt_sink (s : State) (f : ExcKind) : (s.raiseExt f).sink = s.sink := rfl
@[simp] theorem State.raiseExt_samples (s : State) (f : ExcKind) : (s.raiseExt f).samples = s.samples := rfl
@[simp] theorem State.raiseExt_load (s : State) (f : ExcKind) : (s.raiseExt f).load = s.load := rfl
@[simp] theorem State.raiseExt_sched (s : State) (f : ExcKind) : (s.raiseExt f).sched = s.sched := rfl

/-! ## `aggregate` -/

@[simp] theorem State.aggregate_regs (s : State) : s.aggregate.regs = s.regs := rfl
@[simp] theorem State.aggregate_pc (s : State) : s.aggregate.pc = s.pc := rfl
@[simp] theorem State.aggregate_cr (s : State) : s.aggregate.cr = s.cr := rfl
@[simp] theorem State.aggregate_ir (s : State) : s.aggregate.ir = s.ir := rfl
@[simp] theorem State.aggregate_exc (s : State) : s.aggregate.exc = s.faultsPresent := rfl
@[simp] theorem State.aggregate_cpuExc (s : State) : s.aggregate.cpuExc = s.cpuExc := rfl
@[simp] theorem State.aggregate_vdcExc (s : State) : s.aggregate.vdcExc = s.vdcExc := rfl
@[simp] theorem State.aggregate_ioExc (s : State) : s.aggregate.ioExc = s.ioExc := rfl
@[simp] theorem State.aggregate_extExc (s : State) : s.aggregate.extExc = s.extExc := rfl
@[simp] theorem State.aggregate_panic (s : State) : s.aggregate.panic = (s.panic || decide (s.faultsPresent ≠ 0)) := rfl
@[simp] theorem State.aggregate_resetHold (s : State) : s.aggregate.resetHold = s.resetHold := rfl
@[simp] theorem State.aggregate_debugEn (s : State) : s.aggregate.debugEn = s.debugEn := rfl
@[simp] theorem State.aggregate_clkDiv (s : State) : s.aggregate.clkDiv = s.clkDiv := rfl
@[simp] theorem State.aggregate_mem (s : State) : s.aggregate.mem = s.mem := rfl
@[simp] theorem State.aggregate_pix (s : State) : s.aggregate.pix = s.pix := rfl
@[simp] theorem State.aggregate_vmode (s : State) : s.aggregate.vmode = s.vmode := rfl
@[simp] theorem State.aggregate_cx (s : State) : s.aggregate.cx = s.cx := rfl
@[simp] theorem State.aggregate_cy (s : State) : s.aggregate.cy = s.cy := rfl
@[simp] theorem State.aggregate_retrace (s : State) : s.aggregate.retrace = s.retrace := rfl
@[simp] theorem State.aggregate_q (s : State) : s.aggregate.q = s.q := rfl
@[simp] theorem State.aggregate_cpuAccess (s : State) : s.aggregate.cpuAccess = s.cpuAccess := rfl
@[simp] theorem State.aggregate_ioinHigh (s : State) : s.aggregate.ioinHigh = s.ioinHigh := rfl
@[simp] theorem State.aggregate_iooutLow (s : State) : s.aggregate.iooutLow = s.iooutLow := rfl
@[simp] theorem State.aggregate_platform (s : State) : s.aggregate.platform = s.platform := rfl
@[simp] theorem State.aggregate_outStream (s : State) : s.aggregate.outStream = s.outStream := rfl
@[simp] theorem State.aggregate_sink (s : State) : s.aggregate.sink = s.sink := rfl
@[simp] theorem State.aggregate_samples (s : State) : s.aggregate.samples = s.samples := rfl
@[simp] theorem State.aggregate_load (s : State) : s.aggregate.load = s.load := rfl
@[simp] theorem State.aggregate_sched (s : State) : s.aggregate.sched = s.sched := rfl

/-! ## `advance` -/

@[simp] theorem State.advance_regs (s : State) : s.advance.regs = s.regs := rfl
@[simp] theorem State.advance_pc (s : State) : s.advance.pc = s.pc + 4 := rfl
@[simp] theorem State.advance_cr (s : State) : s.advance.cr = s.cr := rfl
@[simp] theorem State.advance_ir (s : State) : s.advance.ir = s.ir := rfl
@[simp] theorem State.advance_exc (s : State) : s.advance.exc = s.exc := rfl
@[simp] theorem State.advance_cpuExc (s : State) : s.advance.cpuExc = s.cpuExc := rfl
@[simp] theorem State.advance_vdcExc (s : State) : s.advance.vdcExc = s.vdcExc := rfl
@[simp] theorem State.advance_ioExc (s : State) : s.advance.ioExc = s.ioExc := rfl
@[simp] theorem State.advance_extExc (s : State) : s.advance.extExc = s.extExc := rfl
@[simp] theorem State.advance_panic (s : State) : s.advance.panic = s.panic := rfl
@[simp] theorem State.advance_resetHold (s : State) : s.advance.resetHold = s.resetHold := rfl
@[simp] theorem State.advance_debugEn (s : State) : s.advance.debugEn = s.debugEn := rfl
@[simp] theorem State.advance_clkDiv (s : State) : s.advance.clkDiv = s.clkDiv := rfl
@[simp] theorem State.advance_mem (s : State) : s.advance.mem = s.mem := rfl
@[simp] theorem State.advance_pix (s : State) : s.advance.pix = s.pix := rfl
@[simp] theorem State.advance_vmode (s : State) : s.advance.vmode = s.vmode := rfl
@[simp] theorem State.advance_cx (s : State) : s.advance.cx = s.cx := rfl
@[simp] theorem State.advance_cy (s : State) : s.advance.cy = s.cy := rfl
@[simp] theorem State.advance_retrace (s : State) : s.advance.retrace = s.retrace := rfl
@[simp] theorem State.advance_q (s : State) : s.advance.q = s.q := rfl
@[simp] theorem State.advance_cpuAccess (s : State) : s.advance.cpuAccess = s.cpuAccess := rfl
@[simp] theorem State.advance_ioinHigh (s : State) : s.advance.ioinHigh = s.ioinHigh := rfl
@[simp] theorem State.advance_iooutLow (s : State) : s.advance.iooutLow = s.iooutLow := rfl
@[simp] theorem State.advance_platform (s : State) : s.advance.platform = s.platform := rfl
@[simp] theorem State.advance_outStream (s : State) : s.advance.outStream = s.outStream := rfl
@[simp] theorem State.advance_sink (s : State) : s.advance.sink = s.sink := rfl
@[simp] theorem State.advance_samples (s : State) : s.advance.samples = s.samples := rfl
@[simp] theorem State.advance_load (s : State) : s.advance.load = s.load := rfl
@[simp] theorem State.advance_sched (s : State) : s.advance.sched = s.sched := rfl

/-! ## `fetch` -/

@[simp] theorem State.fetch_regs (s : State) : s.fetch.regs = s.regs := rfl
@[simp] theorem State.fetch_pc (s : State) : s.fetch.pc = s.pc := rfl
@[simp] theorem State.fetch_cr (s : State) : s.fetch.cr = s.cr := rfl
@[simp] theorem State.fetch_ir (s : State) : s.fetch.ir = s.readDWord s.pc.toNat := rfl
@[simp] theorem State.fetch_exc (s : State) : s.fetch.exc = s.exc := rfl
@[simp] theorem State.fetch_cpuExc (s : State) : s.fetch.cpuExc = s.cpuExc := rfl
@[simp] theorem State.fetch_vdcExc (s : State) : s.fetch.vdcExc = s.vdcExc := rfl
@[simp] theorem State.fetch_ioExc (s : State) : s.fetch.ioExc = s.ioExc := rfl
@[simp] theorem State.fetch_extExc (s : State) : s.fetch.extExc = s.extExc := rfl
@[simp] theorem State.fetch_panic (s : State) : s.fetch.panic = s.panic := rfl
@[simp] theorem State.fetch_resetHold (s : State) : s.fetch.resetHold = s.resetHold := rfl
@[simp] theorem State.fetch_debugEn (s : State) : s.fetch.debugEn = s.debugEn := rfl
@[simp] theorem State.fetch_clkDiv (s : State) : s.fetch.clkDiv = s.clkDiv := rfl
@[simp] theorem State.fetch_mem (s : State) : s.fetch.mem = s.mem := rfl
@[simp] theorem State.fetch_pix (s : State) : s.fetch.pix = s.pix := rfl
@[simp] theorem State.fetch_vmode (s : State) : s.fetch.vmode = s.vmode := rfl
@[simp] theorem State.fetch_cx (s : State) : s.fetch.cx = s.cx := rfl
@[simp] theorem State.fetch_cy (s : State) : s.fetch.cy = s.cy := rfl
@[simp] theorem State.fetch_retrace (s : State) : s.fetch.retrace = s.retrace := rfl
@[simp] theorem State.fetch_q (s : State) : s.fetch.q = s.q := rfl
@[simp] theorem State.fetch_cpuAccess (s : State) : s.fetch.cpuAccess = s.cpuAccess := rfl
@[simp] theorem State.fetch_ioinHigh (s : State) : s.fetch.ioinHigh = s.ioinHigh := rfl
@[simp] theorem State.fetch_iooutLow (s : State) : s.fetch.iooutLow = s.iooutLow := rfl
@[simp] theorem State.fetch_platform (s : State) : s.fetch.platform = s.platform := rfl
@[simp] theorem State.fetch_outStream (s : State) : s.fetch.outStream = s.outStream := rfl
@[simp] theorem State.fetch_sink (s : State) : s.fetch.sink = s.sink := rfl
@[simp] theorem State.fetch_samples (s : State) : s.fetch.samples = s.samples := rfl
@[simp] theorem State.fetch_load (s : State) : s.fetch.load = s.load := rfl
@[simp] theorem State.fetch_sched (s : State) : s.fetch.sched = s.sched := rfl

/-! ## `startDecode` -/

@[simp] theorem State.startDecode_regs (s : State) : s.startDecode.regs = s.regs := rfl
@[simp] theorem State.startDecode_pc (s : State) : s.startDecode.pc = s.pc := rfl
@[simp] theorem State.startDecode_cr (s : State) : s.startDecode.cr = s.cr := rfl
@[simp] theorem State.startDecode_ir (s : State) : s.startDecode.ir = s.ir := rfl
@[simp] theorem State.startDecode_exc (s : State) : s.startDecode.exc = s.exc := rfl
@[simp] theorem State.startDecode_cpuExc (s : State) : s.startDecode.cpuExc = 0 := rfl
@[simp] theorem State.startDecode_vdcExc (s : State) : s.startDecode.vdcExc = s.vdcExc := rfl
@[simp] theorem State.startDecode_ioExc (s : State) : s.startDecode.ioExc = s.ioExc := rfl
@[simp] theorem State.startDecode_extExc (s : State) : s.startDecode.extExc = s.extExc := rfl
@[simp] theorem State.startDecode_panic (s : State) : s.startDecode.panic = s.panic := rfl
@[simp] theorem State.startDecode_resetHold (s : State) : s.startDecode.resetHold = s.resetHold := rfl
@[simp] theorem State.startDecode_debugEn (s : State) : s.startDecode.debugEn = s.debugEn := rfl
@[simp] theorem State.startDecode_clkDiv (s : State) : s.startDecode.clkDiv = s.clkDiv := rfl
@[simp] theorem State.startDecode_mem (s : State) : s.startDecode.mem = s.mem := rfl
@[simp] theorem State.startDecode_pix (s : State) : s.startDecode.pix = s.pix := rfl
@[simp] theorem State.startDecode_vmode (s : State) : s.startDecode.vmode = s.vmode := rfl
@[simp] theorem State.startDecode_cx (s : State) : s.startDecode.cx = s.cx := rfl
@[simp] theorem State.startDecode_cy (s : State) : s.startDecode.cy = s.cy := rfl
@[simp] theorem State.startDecode_retrace (s : State) : s.startDecode.retrace = s.retrace := rfl
@[simp] theorem State.startDecode_q (s : State) : s.startDecode.q = s.q := rfl
@[simp] theorem State.startDecode_cpuAccess (s : State) : s.startDecode.cpuAccess = s.cpuAccess := rfl
@[simp] theorem State.startDecode_ioinHigh (s : State) : s.startDecode.ioinHigh = s.ioinHigh := rfl
@[simp] theorem State.startDecode_iooutLow (s : State) : s.startDecode.iooutLow = s.iooutLow := rfl
@[simp] theorem State.startDecode_platform (s : State) : s.startDecode.platform = s.platform := rfl
@[simp] theorem State.startDecode_outStream (s : State) : s.startDecode.outStream = s.outStream := rfl
@[simp] theorem State.startDecode_sink (s : State) : s.startDecode.sink = s.sink := rfl
@[simp] theorem State.startDecode_samples (s : State) : s.startDecode.samples = s.samples := rfl
@[simp] theorem State.startDecode_load (s : State) : s.startDecode.load = s.load := rfl
@[simp] theorem State.startDecode_sched (s : State) : s.startDecode.sched = s.sched := rfl

/-! ## `dropTurn` -/

@[simp] theorem State.dropTurn_regs (s : State) : s.dropTurn.regs = s.regs := rfl
@[simp] theorem State.dropTurn_pc (s : State) : s.dropTurn.pc = s.pc := rfl
@[simp] theorem State.dropTurn_cr (s : State) : s.dropTurn.cr = s.cr := rfl
@[simp] theorem State.dropTurn_ir (s : State) : s.dropTurn.ir = s.ir := rfl
@[simp] theorem State.dropTurn_exc (s : State) : s.dropTurn.exc = s.exc := rfl
@[simp] theorem State.dropTurn_cpuExc (s : State) : s.dropTurn.cpuExc = s.cpuExc := rfl
@[simp] theorem State.dropTurn_vdcExc (s : State) : s.dropTurn.vdcExc = s.vdcExc := rfl
@[simp] theorem State.dropTurn_ioExc (s : State) : s.dropTurn.ioExc = s.ioExc := rfl
@[simp] theorem State.dropTurn_extExc (s : State) : s.dropTurn.extExc = s.extExc := rfl
@[simp] theorem State.dropTurn_panic (s : State) : s.dropTurn.panic = s.panic := rfl
@[simp] theorem State.dropTurn_resetHold (s : State) : s.dropTurn.resetHold = s.resetHold := rfl
@[simp] theorem State.dropTurn_debugEn (s : State) : s.dropTurn.debugEn = s.debugEn := rfl
@[simp] theorem State.dropTurn_clkDiv (s : State) : s.dropTurn.clkDiv = s.clkDiv := rfl
@[simp] theorem State.dropTurn_mem (s : State) : s.dropTurn.mem = s.mem := rfl
@[simp] theorem State.dropTurn_pix (s : State) : s.dropTurn.pix = s.pix := rfl
@[simp] theorem State.dropTurn_vmode (s : State) : s.dropTurn.vmode = s.vmode := rfl
@[simp] theorem State.dropTurn_cx (s : State) : s.dropTurn.cx = s.cx := rfl
@[simp] theorem State.dropTurn_cy (s : State) : s.dropTurn.cy = s.cy := rfl
@[simp] theorem State.dropTurn_retrace (s : State) : s.dropTurn.retrace = s.retrace := rfl
@[simp] theorem State.dropTurn_q (s : State) : s.dropTurn.q = s.q := rfl
@[simp] theorem State.dropTurn_cpuAccess (s : State) : s.dropTurn.cpuAccess = s.cpuAccess := rfl
@[simp] theorem State.dropTurn_ioinHigh (s : State) : s.dropTurn.ioinHigh = s.ioinHigh := rfl
@[simp] theorem State.dropTurn_iooutLow (s : State) : s.dropTurn.iooutLow = s.iooutLow := rfl
@[simp] theorem State.dropTurn_platform (s : State) : s.dropTurn.platform = s.platform := rfl
@[simp] theorem State.dropTurn_outStream (s : State) : s.dropTurn.outStream = s.outStream := rfl
@[simp] theorem State.dropTurn_sink (s : State) : s.dropTurn.sink = s.sink := rfl
@[simp] theorem State.dropTurn_samples (s : State) : s.dropTurn.samples = s.samples := rfl
@[simp] theorem State.dropTurn_load (s : State) : s.dropTurn.load = s.load := rfl
@[simp] theorem State.dropTurn_sched (s : State) : s.dropTurn.sched = s.sched.tail := rfl

/-! ## `resetProcedure` (what it leaves; every other field is `State.reset`'s) -/

@[simp] theorem State.resetProcedure_regs (s : State) : s.resetProcedure.regs = State.reset.regs := rfl
@[simp] theorem State.resetProcedure_pc (s : State) : s.resetProcedure.pc = State.reset.pc := rfl
@[simp] theorem State.resetProcedure_cr (s : State) : s.resetProcedure.cr = State.reset.cr := rfl
@[simp] theorem State.resetProcedure_ir (s : State) : s.resetProcedure.ir = State.reset.ir := rfl
@[simp] theorem State.resetProcedure_exc (s : State) : s.resetProcedure.exc = State.reset.exc := rfl
@[simp] theorem State.resetProcedure_cpuExc (s : State) : s.resetProcedure.cpuExc = State.reset.cpuExc := rfl
@[simp] theorem State.resetProcedure_vdcExc (s : State) : s.resetProcedure.vdcExc = State.reset.vdcExc := rfl
@[simp] theorem State.resetProcedure_ioExc (s : State) : s.resetProcedure.ioExc = State.reset.ioExc := rfl
@[simp] theorem State.resetProcedure_extExc (s : State) : s.resetProcedure.extExc = State.reset.extExc := rfl
@[simp] theorem State.resetProcedure_panic (s : State) : s.resetProcedure.panic = State.reset.panic := rfl
@[simp] theorem State.resetProcedure_resetHold (s : State) : s.resetProcedure.resetHold = State.reset.resetHold := rfl
@[simp] theorem State.resetProcedure_debugEn (s : State) : s.resetProcedure.debugEn = s.debugEn := rfl
@[simp] theorem State.resetProcedure_clkDiv (s : State) : s.resetProcedure.clkDiv = s.clkDiv := rfl
@[simp] theorem State.resetProcedure_mem (s : State) : s.resetProcedure.mem = seededMemory s.platform := rfl
@[simp] theorem State.resetProcedure_pix (s : State) : s.resetProcedure.pix = s.pix := rfl
@[simp] theorem State.resetProcedure_vmode (s : State) : s.resetProcedure.vmode = State.reset.vmode := rfl
@[simp] theorem State.resetProcedure_cx (s : State) : s.resetProcedure.cx = State.reset.cx := rfl
@[simp] theorem State.resetProcedure_cy (s : State) : s.resetProcedure.cy = State.reset.cy := rfl
@[simp] theorem State.resetProcedure_retrace (s : State) : s.resetProcedure.retrace = State.reset.retrace := rfl
@[simp] theorem State.resetProcedure_q (s : State) : s.resetProcedure.q = State.reset.q := rfl
@[simp] theorem State.resetProcedure_cpuAccess (s : State) : s.resetProcedure.cpuAccess = State.reset.cpuAccess := rfl
@[simp] theorem State.resetProcedure_ioinHigh (s : State) : s.resetProcedure.ioinHigh = State.reset.ioinHigh := rfl
@[simp] theorem State.resetProcedure_iooutLow (s : State) : s.resetProcedure.iooutLow = State.reset.iooutLow := rfl
@[simp] theorem State.resetProcedure_platform (s : State) : s.resetProcedure.platform = s.platform := rfl
@[simp] theorem State.resetProcedure_outStream (s : State) : s.resetProcedure.outStream = State.reset.outStream := rfl
@[simp] theorem State.resetProcedure_sink (s : State) : s.resetProcedure.sink = State.reset.sink := rfl
@[simp] theorem State.resetProcedure_samples (s : State) : s.resetProcedure.samples = State.reset.samples := rfl
@[simp] theorem State.resetProcedure_load (s : State) : s.resetProcedure.load = State.reset.load := rfl
@[simp] theorem State.resetProcedure_sched (s : State) : s.resetProcedure.sched = s.sched := rfl

end Sys2Proof.Machine
end

