-- ==== Sys2Proof/Laws/Ops.lean ====
section
/-! SUPPORT. What each shared operation does, said once: registers, bytes of memory, operand forms, branch targets. -/

namespace Sys2Proof.Machine

/-! ## Registers -/

theorem State.reg_setReg (s : State) (r r' : RegId) (v : Word) :
    (s.setReg r v).reg r' = if r = r' then v else s.reg r' := by
  simp only [State.reg, State.setReg, Fin.getElem_fin, Vector.getElem_set, Fin.ext_iff]

@[simp] theorem State.reg_setReg_same (s : State) (r : RegId) (v : Word) : (s.setReg r v).reg r = v := by
  simp [State.reg_setReg]

theorem State.reg_setReg_ne (s : State) {r r' : RegId} (v : Word) (h : r' ≠ r) : (s.setReg r v).reg r' = s.reg r' := by
  simp [State.reg_setReg, Ne.symm h]

/-- States with the same register file read the same in every register. -/
theorem State.reg_congr {s t : State} (h : t.regs = s.regs) (r : RegId) : t.reg r = s.reg r := by
  simp only [State.reg, h]

theorem regIndex_of_lt {v : Word} (h : v.toNat < 16) : regIndex v = some ⟨v.toNat, h⟩ := by simp [regIndex, h]

theorem regIndex_of_gt {v : Word} (h : 15 < v.toNat) : regIndex v = none := by
  simp [regIndex, show ¬v.toNat < 16 by omega]

/-- A 16-bit register field names a register exactly when it is at most 15 (spec/10_state.md R11). -/
theorem regIndex_cases (v : Word) :
    (∃ h : v.toNat < 16, regIndex v = some ⟨v.toNat, h⟩) ∨ (15 < v.toNat ∧ regIndex v = none) := by
  by_cases h : v.toNat < 16
  · exact .inl ⟨h, regIndex_of_lt h⟩
  · exact .inr ⟨by omega, regIndex_of_gt (by omega)⟩

/-! ## Memory -/

/-- States with the same RAM read the same in every byte. -/
theorem State.readByte_congr {s t : State} (h : t.mem = s.mem) (a : Nat) : t.readByte a = s.readByte a := by
  simp only [State.readByte, h]

/-- What a byte reads as after `writeBytes`. -/
theorem State.readByte_writeBytes (s : State) (a : Nat) (vs : List Byte) (b : Nat) :
    (s.writeBytes a vs).readByte b = if h : a ≤ b ∧ b < a + vs.length then vs[b - a]'(by omega) else s.readByte b :=
  readCell_blit s.mem a vs b

theorem State.readByte_writeBytes_outside (s : State) {a : Nat} {vs : List Byte} {b : Nat}
    (h : b < a ∨ a + vs.length ≤ b) : (s.writeBytes a vs).readByte b = s.readByte b := by
  rw [State.readByte_writeBytes, dif_neg (by omega)]

@[simp] theorem storedBytes_length (w : Width) (v : Word) : (storedBytes w v).length = w.size := by
  cases w <;> rfl

/-- Bytes outside the stored ones stay (20_memory.md R47: "No other byte changes"). -/
theorem State.readByte_memWrite_outside (s : State) {w : Width} {a : Nat} {v : Word} {b : Nat}
    (h : b < a ∨ a + w.size ≤ b) : (s.memWrite w a v).readByte b = s.readByte b :=
  s.readByte_writeBytes_outside (by simpa using h)

theorem State.readByte_memWrite_low (s : State) (w : Width) (a : Nat) (v : Word) :
    (s.memWrite w a v).readByte a = v.extractLsb' 0 8 := by
  rw [State.memWrite, State.readByte_writeBytes]
  cases w <;> simp [storedBytes]

theorem State.readByte_memWrite_high (s : State) (a : Nat) (v : Word) :
    (s.memWrite .int a v).readByte (a + 1) = v.extractLsb' 8 8 := by
  rw [State.memWrite, State.readByte_writeBytes]
  simp [storedBytes]

/-- A store inside memory keeps RAM's canonical form. -/
theorem State.writeBytes_wf {s : State} {a : Nat} {vs : List Byte} (hs : Memory.wf Config.memSize s.mem = true)
    (h : a + vs.length ≤ Config.memSize) : Memory.wf Config.memSize (s.writeBytes a vs).mem = true :=
  blit_wf hs h

theorem State.memWrite_wf {s : State} {w : Width} {a : Nat} {v : Word} (hs : Memory.wf Config.memSize s.mem = true)
    (h : a + w.size ≤ Config.memSize) : Memory.wf Config.memSize (s.memWrite w a v).mem = true :=
  State.writeBytes_wf hs (by simpa using h)

/-- The memory that the reset procedure seeds is canonical when the images fit their regions (U23). -/
theorem seededMemory_wf {p : Platform} (h : p.ok = true) : Memory.wf Config.memSize (seededMemory p) = true := by
  simp only [Platform.ok, Bool.and_eq_true, decide_eq_true_eq, Config.romSize, Config.bootTextSize] at h
  exact blit_wf (blit_wf rfl (by simp only [Config.romStart, Config.memSize]; omega))
    (by simp only [Config.bootText, Config.memSize]; omega)

/-! ## Operand forms -/

theorem admitted_iff (a n : Nat) : admitted a n = true ↔ a + n ≤ 65536 := by simp [admitted, Config.memSize]

theorem storeAdmitted_iff (w : Width) (a : Word) :
    storeAdmitted w a = true ↔ 0xFE ≤ a.toNat ∧ a.toNat + w.size ≤ 65536 := by
  simp [storeAdmitted, admitted, Config.rwStart, Config.memSize]

/-- All that `Resolve` can do (40_cpu_cycle.md R96): return a register destination, return a writable memory destination,
or raise one of three faults. -/
theorem resolve_cases (w : Width) (m : ModeFlags) (rd : RegId) (opnd : Word) (s : State) :
    (∃ v, m.dr = true ∧ m.dm = false ∧ (m.sr = false → m.sm = true → opnd.toNat + w.size ≤ 65536) ∧
        resolve w m rd opnd s = .ok (.reg rd, v)) ∨
      (m.dr = false ∧ m.dm = true ∧ 0xFE ≤ opnd.toNat ∧ opnd.toNat + w.size ≤ 65536 ∧
        resolve w m rd opnd s = .ok (.mem opnd, w.mask (s.reg rd))) ∨
      ∃ f, (f = .instr ∨ f = .reg ∨ f = .mem) ∧ resolve w m rd opnd s = .error f := by
  obtain ⟨dr, dm, sr, sm⟩ := m
  unfold resolve resolveSource
  cases dr <;> cases dm
  · simp
  · by_cases h : storeAdmitted w opnd = true
    · have h' := (storeAdmitted_iff w opnd).1 h
      simp [h, h'.1, h'.2]
    · simp [h]
  · rcases regIndex_cases opnd with ⟨h, hr⟩ | ⟨h, hr⟩
    · cases sr <;> cases sm <;> simp [hr]
      by_cases ha : admitted opnd.toNat w.size = true <;> simp [ha]
      exact (admitted_iff _ _).1 ha
    · cases sr <;> cases sm <;> simp [hr]
      by_cases ha : admitted opnd.toNat w.size = true <;> simp [ha]
      exact (admitted_iff _ _).1 ha
  · simp

/-- All that an instruction over a resolved operand can do. -/
theorem withResolved_cases (w : Width) (m : ModeFlags) (rd : RegId) (opnd : Word) (s : State) (k : Dest → Word → State) :
    (∃ v, m.dr = true ∧ m.dm = false ∧ (m.sr = false → m.sm = true → opnd.toNat + w.size ≤ 65536) ∧
        withResolved w m rd opnd s k = k (.reg rd) v) ∨
      (m.dr = false ∧ m.dm = true ∧ 0xFE ≤ opnd.toNat ∧ opnd.toNat + w.size ≤ 65536 ∧
        withResolved w m rd opnd s k = k (.mem opnd) (w.mask (s.reg rd))) ∨
      ∃ f, (f = .instr ∨ f = .reg ∨ f = .mem) ∧ withResolved w m rd opnd s k = s.raise f := by
  unfold withResolved
  rcases resolve_cases w m rd opnd s with
    ⟨v, h1, h2, h3, h⟩ | ⟨h1, h2, h3, h4, h⟩ | ⟨f, h1, h⟩
  · exact .inl ⟨v, h1, h2, h3, by simp [h]⟩
  · exact .inr (.inl ⟨h1, h2, h3, h4, by simp [h]⟩)
  · exact .inr (.inr ⟨f, h1, by simp [h]⟩)

/-- All that `Target` can do (44_control_transfer.md R140). -/
theorem resolveTarget_cases (t : Word) (s : State) :
    (0x100 ≤ t.toNat ∧ resolveTarget t s = .ok t) ∨
      (∃ h : t.toNat < 16, resolveTarget t s = .ok (s.reg ⟨t.toNat, h⟩)) ∨
      (15 < t.toNat ∧ t.toNat < 0x100 ∧ resolveTarget t s = .error .instr) := by
  unfold resolveTarget
  simp only [Config.romStart]
  by_cases h : 0x100 ≤ t.toNat
  · exact .inl ⟨h, by simp [h]⟩
  · rcases regIndex_cases t with ⟨hr, hi⟩ | ⟨hr, hi⟩
    · exact .inr (.inl ⟨hr, by simp [h, hi]⟩)
    · exact .inr (.inr ⟨hr, by omega, by simp [h, hi]⟩)

end Sys2Proof.Machine
end

