-- ==== Sys2Proof/Laws/Exec.lean ====
section
/-! SUPPORT. What the CPU's meanings can do, said once: every instruction answers a next state, and how that state may
differ from the one before. -/

namespace Sys2Proof.Machine

/-! ## Nothing but the CPU's own fields -/

namespace State.SameBeyondCpu

theorem refl (s : State) : s.SameBeyondCpu s := by constructor <;> rfl

theorem setReg (s : State) (r : RegId) (v : Word) : s.SameBeyondCpu (s.setReg r v) := by constructor <;> rfl

theorem memWrite (s : State) (w : Width) (a : Nat) (v : Word) : s.SameBeyondCpu (s.memWrite w a v) := by constructor <;> rfl

theorem raise (s : State) (f : ExcKind) : s.SameBeyondCpu (s.raise f) := by constructor <;> rfl

end State.SameBeyondCpu

/-! ## The instructions' effects -/

/-- A format-A instruction that stores `val d v` to its destination: a raise, a register written, or a store to memory. -/
theorem withResolved_write_cases (w : Width) (m : ModeFlags) (rd : RegId) (opnd : Word) (s : State) (val : Dest → Word → Word) :
    (∃ v, m.dr = true ∧ m.dm = false ∧
        withResolved w m rd opnd s (fun d v => s.writeDest w d (val d v)) = s.setReg rd v) ∨
      (∃ v, m.dr = false ∧ m.dm = true ∧ 0xFE ≤ opnd.toNat ∧ opnd.toNat + w.size ≤ 65536 ∧
        withResolved w m rd opnd s (fun d v => s.writeDest w d (val d v)) = s.memWrite w opnd.toNat v) ∨
      ∃ f, (f = .instr ∨ f = .reg ∨ f = .mem) ∧
        withResolved w m rd opnd s (fun d v => s.writeDest w d (val d v)) = s.raise f := by
  rcases withResolved_cases w m rd opnd s (fun d v => s.writeDest w d (val d v)) with
    ⟨v, h1, h2, -, h⟩ | ⟨h1, h2, h3, h4, h⟩ | ⟨f, h1, h⟩
  · exact .inl ⟨_, h1, h2, h⟩
  · exact .inr (.inl ⟨_, h1, h2, h3, h4, h⟩)
  · exact .inr (.inr ⟨f, h1, h⟩)

/-- What `mov`, `movi`, `add` and `sub` can do. -/
inductive MoveEffect (w : Width) (m : ModeFlags) (rd : RegId) (opnd : Word) (s : State) : State → Prop where
  | reg (v : Word) (hr : m.dr = true) (hm : m.dm = false) : MoveEffect w m rd opnd s (s.setReg rd v)
  | mem (v : Word) (hr : m.dr = false) (hm : m.dm = true) (ha : 0xFE ≤ opnd.toNat) (hb : opnd.toNat + w.size ≤ 65536) :
      MoveEffect w m rd opnd s (s.memWrite w opnd.toNat v)
  | raise (f : ExcKind) : MoveEffect w m rd opnd s (s.raise f)

theorem withResolved_write_effect (w : Width) (m : ModeFlags) (rd : RegId) (opnd : Word) (s : State)
    (val : Dest → Word → Word) : MoveEffect w m rd opnd s (withResolved w m rd opnd s fun d v => s.writeDest w d (val d v)) := by
  rcases withResolved_write_cases w m rd opnd s val with ⟨v, h1, h2, h⟩ | ⟨v, h1, h2, h3, h4, h⟩ | ⟨f, -, h⟩
  · rw [h]; exact .reg v h1 h2
  · rw [h]; exact .mem v h1 h2 h3 h4
  · rw [h]; exact .raise f

theorem execMov_effect (m : ModeFlags) (rd : RegId) (opnd : Word) (s : State) :
    ∃ t, execMov m rd opnd s = .next t ∧ MoveEffect .byte m rd opnd s t :=
  ⟨_, rfl, withResolved_write_effect .byte m rd opnd s fun _ v => v⟩

/-! ### 16-bit accesses -/

@[simp] theorem State.useLoaded_register (s : State) (rd : RegId) (v : Word) : s.useLoaded (.register rd) v = s.setReg rd v := rfl
@[simp] theorem State.useLoaded_compareSource (s : State) (rd : RegId) (v : Word) :
    s.useLoaded (.compareSource rd) v = s.setCompare v (s.reg rd) := rfl
@[simp] theorem State.useLoaded_compareDest (s : State) (v dv : Word) :
    s.useLoaded (.compareDest v) dv = s.setCompare v dv := rfl

/-- All that a 16-bit load can do (spec/20_memory.md R52). -/
theorem State.loadWord_cases (s : State) (a : Word) (u : LoadUse) :
    (s.platform.atomic16 = true ∧ s.loadWord a u = s.useLoaded u (s.memRead .int a.toNat)) ∨
      (s.platform.atomic16 = false ∧
        s.loadWord a u = { s with cpuAccess := some (.load a (s.readByte a.toNat) u) }) := by
  unfold State.loadWord
  cases s.platform.atomic16 <;> simp

/-- All that a 16-bit store can do (R52). -/
theorem State.storeWord_cases (s : State) (a : Word) (v : Word) :
    (s.platform.atomic16 = true ∧ s.storeWord a v = s.memWrite .int a.toNat v) ∨
      (s.platform.atomic16 = false ∧
        s.storeWord a v =
          { s.writeBytes a.toNat [v.extractLsb' 0 8] with cpuAccess := some (.store a (v.extractLsb' 8 8)) }) := by
  unfold State.storeWord
  cases s.platform.atomic16 <;> simp

/-- What `movi` can do: what the other moves can, or with `ATOMIC16` false the first byte of a load or a store. -/
inductive MoviEffect (m : ModeFlags) (rd : RegId) (opnd : Word) (s : State) : State → Prop where
  | whole {t : State} (h : MoveEffect .int m rd opnd s t) : MoviEffect m rd opnd s t
  | loadHalf (low : Byte) (hr : m.dr = true) (hm : m.dm = false) (hp : s.platform.atomic16 = false)
      (hb : opnd.toNat + 2 ≤ 65536) : MoviEffect m rd opnd s { s with cpuAccess := some (.load opnd low (.register rd)) }
  | storeHalf (low high : Byte) (hr : m.dr = false) (hm : m.dm = true) (hp : s.platform.atomic16 = false)
      (ha : 0xFE ≤ opnd.toNat) (hb : opnd.toNat + 2 ≤ 65536) :
      MoviEffect m rd opnd s { s.writeBytes opnd.toNat [low] with cpuAccess := some (.store opnd high) }

theorem sourceInMemory_iff (m : ModeFlags) : sourceInMemory m = true ↔ m.sr = false ∧ m.sm = true := by
  simp [sourceInMemory]

/-- All that using a resolved source can do: its value used, or with `ATOMIC16` false the first byte of its load (R52). -/
theorem State.useSource_cases (s : State) (m : ModeFlags) (opnd : Word) (u : LoadUse) (v : Word) :
    (∃ x, s.useSource m opnd u v = s.useLoaded u x) ∨
      (m.sr = false ∧ m.sm = true ∧ s.platform.atomic16 = false ∧
        s.useSource m opnd u v = { s with cpuAccess := some (.load opnd (s.readByte opnd.toNat) u) }) := by
  unfold State.useSource
  by_cases hs : sourceInMemory m = true
  · rw [if_pos hs]
    rcases s.loadWord_cases opnd u with ⟨-, e⟩ | ⟨hp, e⟩
    · exact .inl ⟨_, e⟩
    · exact .inr ⟨((sourceInMemory_iff m).1 hs).1, ((sourceInMemory_iff m).1 hs).2, hp, e⟩
  · exact .inl ⟨v, if_neg hs⟩

@[simp] theorem State.moveWord_reg (s : State) (m : ModeFlags) (opnd : Word) (r : RegId) (v : Word) :
    s.moveWord m opnd (.reg r) v = s.useSource m opnd (.register r) v := rfl
@[simp] theorem State.moveWord_mem (s : State) (m : ModeFlags) (opnd a v : Word) :
    s.moveWord m opnd (.mem a) v = s.storeWord a v := rfl
@[simp] theorem State.compareWord_reg (s : State) (m : ModeFlags) (opnd : Word) (r : RegId) (v : Word) :
    s.compareWord m opnd (.reg r) v = s.useSource m opnd (.compareSource r) v := rfl
@[simp] theorem State.compareWord_mem (s : State) (m : ModeFlags) (opnd a v : Word) :
    s.compareWord m opnd (.mem a) v = s.loadWord a (.compareDest v) := rfl

theorem execMovi_effect (m : ModeFlags) (rd : RegId) (opnd : Word) (s : State) :
    ∃ t, execMovi m rd opnd s = .next t ∧ MoviEffect m rd opnd s t := by
  refine ⟨_, rfl, ?_⟩
  rcases withResolved_cases .int m rd opnd s (fun d v => s.moveWord m opnd d v) with
    ⟨v, h1, h2, h3, h⟩ | ⟨h1, h2, h3, h4, h⟩ | ⟨f, -, h⟩
  · rw [h, State.moveWord_reg]
    rcases s.useSource_cases m opnd (.register rd) v with ⟨x, e⟩ | ⟨hr, hm, hp, e⟩ <;> rw [e]
    · exact .whole (.reg x h1 h2)
    · exact .loadHalf _ h1 h2 hp (h3 hr hm)
  · rw [h, State.moveWord_mem]
    rcases s.storeWord_cases opnd (Width.int.mask (s.reg rd)) with ⟨-, e⟩ | ⟨hp, e⟩ <;> rw [e]
    · exact .whole (.mem _ h1 h2 h3 h4)
    · exact .storeHalf _ _ h1 h2 hp h3 h4
  · rw [h]
    exact .whole (.raise f)

theorem execAdd_effect (m : ModeFlags) (rd : RegId) (opnd : Word) (s : State) :
    ∃ t, execAdd m rd opnd s = .next t ∧ MoveEffect .byte m rd opnd s t :=
  ⟨_, rfl, withResolved_write_effect .byte m rd opnd s fun d v => s.readDest .byte d + v⟩

theorem execSub_effect (m : ModeFlags) (rd : RegId) (opnd : Word) (s : State) :
    ∃ t, execSub m rd opnd s = .next t ∧ MoveEffect .byte m rd opnd s t :=
  ⟨_, rfl, withResolved_write_effect .byte m rd opnd s fun d v => s.readDest .byte d - v⟩

theorem flagsOfDelta_legal (d : Int) : crLegal (flagsOfDelta d) = true := by
  unfold flagsOfDelta
  split
  · rfl
  · split <;> rfl

theorem State.setCompare_legal (s : State) (v dv : Word) : crLegal (s.setCompare v dv).cr = true := flagsOfDelta_legal _

/-- What `cmp` can do: one legal value in `cr`; `CC_UNDEF` there and with `ATOMIC16` false the first byte of a load; or
`CC_UNDEF` there and a fault. -/
theorem execCmp_effect (m : ModeFlags) (rd : RegId) (opnd : Word) (s : State) :
    ∃ t, execCmp m rd opnd s = .next t ∧
      ((∃ c, crLegal c = true ∧ t = s.setCr c) ∨
        (∃ h, s.platform.atomic16 = false ∧ HalfAccess.InRange h ∧
          t = { s.setCr Config.ccUndef with cpuAccess := some h }) ∨
        ∃ f, t = (s.setCr Config.ccUndef).raise f) := by
  refine ⟨_, rfl, ?_⟩
  rcases withResolved_cases .int m rd opnd (s.setCr Config.ccUndef)
      (fun d v => (s.setCr Config.ccUndef).compareWord m opnd d v) with
    ⟨v, -, -, h3, h⟩ | ⟨-, -, -, hb, h⟩ | ⟨f, -, h⟩
  · rw [h, State.compareWord_reg]
    rcases (s.setCr Config.ccUndef).useSource_cases m opnd (.compareSource rd) v with ⟨x, e⟩ | ⟨hr, hm, hp, e⟩ <;> rw [e]
    · exact .inl ⟨_, flagsOfDelta_legal _, rfl⟩
    · exact .inr (.inl ⟨.load opnd _ _, hp, h3 hr hm, rfl⟩)
  · rw [h, State.compareWord_mem]
    rcases (s.setCr Config.ccUndef).loadWord_cases opnd
        (.compareDest (Width.int.mask ((s.setCr Config.ccUndef).reg rd))) with ⟨-, e⟩ | ⟨hp, e⟩ <;> rw [e]
    · exact .inl ⟨_, flagsOfDelta_legal _, rfl⟩
    · exact .inr (.inl ⟨.load opnd _ _, hp, hb, rfl⟩)
  · exact .inr (.inr ⟨f, h⟩)

/-- What a conditional branch can do. -/
theorem branchIf_effect (s : State) (flag : Byte) (target : Word) :
    (∃ f, s.branchIf flag target = s.raise f) ∨ s.branchIf flag target = s.setCr Config.ccUndef ∨
      ∃ p, s.branchIf flag target = { s.setCr Config.ccUndef with pc := p } := by
  unfold State.branchIf
  split
  · exact .inl ⟨_, rfl⟩
  · split
    · exact .inr (.inr ⟨_, rfl⟩)
    · exact .inr (.inl rfl)

/-- What forwarding can do. -/
theorem forward_effect (s : State) :
    (s.q.length = 32 ∧ s.forward = s.raise .display) ∨ (s.q.length ≠ 32 ∧ s.forward = { s with q := s.q ++ [s.ir] }) := by
  unfold State.forward
  by_cases h : s.q.length = Config.qCap
  · exact .inl ⟨h, by rw [if_pos h]⟩
  · exact .inr ⟨h, by rw [if_neg h]⟩

/-- Every display instruction is the same in the CPU (spec/45_display_forwarding.md R152). -/
theorem exec_display {i : Instr} (h : i.isDisplay = true) (s : State) : exec i s = .next s.forward := by
  cases i <;> first | rfl | cases h

/-- All that an instruction can do to the state. -/
inductive CpuEffect (i : Instr) (s : State) : State → Prop where
  | none : CpuEffect i s s
  | reg (rd : RegId) (v : Word) : CpuEffect i s (s.setReg rd v)
  | mem (w : Width) (a : Nat) (v : Word) (ha : 0xFE ≤ a) (hb : a + w.size ≤ 65536) : CpuEffect i s (s.memWrite w a v)
  | jump (p : DWord) : CpuEffect i s { s with pc := p }
  | flags (c : Byte) (hc : crLegal c = true) : CpuEffect i s (s.setCr c)
  | branch (p : DWord) : CpuEffect i s { s.setCr Config.ccUndef with pc := p }
  | halt : CpuEffect i s { s with panic := true }
  | push (hi : i.isDisplay = true) (hq : s.q.length ≠ 32) : CpuEffect i s { s with q := s.q ++ [s.ir] }
  | raise (f : ExcKind) : CpuEffect i s (s.raise f)
  | loadHalf (h : HalfAccess) (hi : ∃ m rd opnd, i = .movi m rd opnd) (hp : s.platform.atomic16 = false) (hb : h.InRange) :
      CpuEffect i s { s with cpuAccess := some h }
  | storeHalf (a : Word) (low high : Byte) (hi : ∃ m rd opnd, i = .movi m rd opnd) (hp : s.platform.atomic16 = false)
      (ha : 0xFE ≤ a.toNat) (hb : a.toNat + 2 ≤ 65536) :
      CpuEffect i s { s.writeBytes a.toNat [low] with cpuAccess := some (.store a high) }
  | flagsHalf (h : HalfAccess) (hi : ∃ m rd opnd, i = .cmp m rd opnd) (hp : s.platform.atomic16 = false) (hb : h.InRange) :
      CpuEffect i s { s.setCr Config.ccUndef with cpuAccess := some h }
  | flagsRaise (hi : ∃ m rd opnd, i = .cmp m rd opnd) (f : ExcKind) : CpuEffect i s ((s.setCr Config.ccUndef).raise f)

theorem MoveEffect.cpu {w : Width} {m : ModeFlags} {rd : RegId} {opnd : Word} {s t : State} (i : Instr)
    (h : MoveEffect w m rd opnd s t) : CpuEffect i s t := by
  cases h with
  | reg v => exact .reg rd v
  | mem v _ _ ha hb => exact .mem w _ v ha hb
  | raise f => exact .raise f

/-- Every instruction answers a next state, by one of the effects above. -/
theorem exec_effect (i : Instr) (s : State) : ∃ t, exec i s = .next t ∧ CpuEffect i s t := by
  have branch : ∀ (flag : Byte) (target : Word), CpuEffect i s (s.branchIf flag target) := by
    intro flag target
    rcases branchIf_effect s flag target with ⟨f, h⟩ | h | ⟨p, h⟩
    · rw [h]; exact .raise f
    · rw [h]; exact .flags _ rfl
    · rw [h]; exact .branch p
  have display : i.isDisplay = true → ∃ t, exec i s = .next t ∧ CpuEffect i s t := by
    intro hi
    refine ⟨_, exec_display hi s, ?_⟩
    rcases forward_effect s with ⟨-, h⟩ | ⟨hq, h⟩
    · rw [h]; exact .raise _
    · rw [h]; exact .push hi hq
  cases i with
  | halt => exact ⟨_, rfl, .halt⟩
  | nop => exact ⟨_, rfl, .none⟩
  | mov m rd opnd => exact (execMov_effect m rd opnd s).imp fun t h => ⟨h.1, h.2.cpu _⟩
  | movi m rd opnd =>
    obtain ⟨t, h, e⟩ := execMovi_effect m rd opnd s
    refine ⟨t, h, ?_⟩
    cases e with
    | whole e => exact e.cpu _
    | loadHalf low _ _ hp hb => exact .loadHalf _ ⟨m, rd, opnd, rfl⟩ hp hb
    | storeHalf low high _ _ hp ha hb => exact .storeHalf _ _ _ ⟨m, rd, opnd, rfl⟩ hp ha hb
  | add m rd opnd => exact (execAdd_effect m rd opnd s).imp fun t h => ⟨h.1, h.2.cpu _⟩
  | sub m rd opnd => exact (execSub_effect m rd opnd s).imp fun t h => ⟨h.1, h.2.cpu _⟩
  | jmp target =>
    rcases resolveTarget_cases target s with ⟨-, h⟩ | ⟨hl, h⟩ | ⟨-, -, h⟩
    · exact ⟨{ s with pc := branchPc target }, by simp only [exec, execJmp, h], .jump _⟩
    · exact ⟨{ s with pc := branchPc (s.reg ⟨target.toNat, hl⟩) }, by simp only [exec, execJmp, h], .jump _⟩
    · exact ⟨s.raise .instr, by simp only [exec, execJmp, h], .raise _⟩
  | cmp m rd opnd =>
    obtain ⟨t, h, ⟨c, hc, rfl⟩ | ⟨a, hp, hb, rfl⟩ | ⟨f, rfl⟩⟩ := execCmp_effect m rd opnd s
    · exact ⟨_, h, .flags c hc⟩
    · exact ⟨_, h, .flagsHalf a ⟨m, rd, opnd, rfl⟩ hp hb⟩
    · exact ⟨_, h, .flagsRaise ⟨m, rd, opnd, rfl⟩ f⟩
  | breq target => exact ⟨_, rfl, branch _ _⟩
  | brneq target => exact ⟨_, rfl, branch _ _⟩
  | stopc rd => exact ⟨_, rfl, .reg rd _⟩
  | rst => exact ⟨_, rfl, .raise _⟩
  | movmr rd rs =>
    rcases regIndex_cases rs with ⟨h, hr⟩ | ⟨-, hr⟩
    · exact ⟨s.setReg rd (s.memRead .byte (s.reg ⟨rs.toNat, h⟩).toNat), by simp only [exec, execMovmr, hr], .reg rd _⟩
    · exact ⟨s.raise .reg, by simp only [exec, execMovmr, hr], .raise _⟩
  | dimd => exact display rfl
  | diclr => exact display rfl
  | diwtrt => exact display rfl
  | disetxy => exact display rfl
  | dichar => exact display rfl
  | diputpixel => exact display rfl

/-- The effect of an instruction, from its next state. -/
theorem exec_inv {i : Instr} {s t : State} (h : exec i s = .next t) : CpuEffect i s t := by
  obtain ⟨u, hu, he⟩ := exec_effect i s
  rw [hu] at h
  injection h with h
  exact h ▸ he

/-- No instruction writes anything beyond the CPU's own state, RAM and the queue. -/
theorem CpuEffect.sameBeyondCpu {i : Instr} {s t : State} (h : CpuEffect i s t) : s.SameBeyondCpu t := by
  cases h <;> constructor <;> rfl

/-- No instruction changes a byte below `RW_START` (spec/20_memory.md R43). -/
theorem CpuEffect.readOnlyZone {i : Instr} {s t : State} (h : CpuEffect i s t) {a : Nat} (ha : a < 0xFE) :
    t.readByte a = s.readByte a := by
  cases h with
  | mem w b v hb _ => exact s.readByte_memWrite_outside (.inl (by omega))
  | storeHalf b low high _ _ hb _ => exact s.readByte_writeBytes_outside (.inl (by omega))
  | _ => rfl

/-! ## The second byte of an access in progress -/

/-- All that the second byte of an access can do. -/
inductive FinishEffect (s : State) : State → Prop where
  | reg (rd : RegId) (v : Word) : FinishEffect s (({ s with cpuAccess := none } : State).setReg rd v)
  | compare (v dv : Word) : FinishEffect s (({ s with cpuAccess := none } : State).setCompare v dv)
  | store (a : Word) (high : Byte) (h : s.cpuAccess = some (.store a high)) :
      FinishEffect s (({ s with cpuAccess := none } : State).writeBytes (a.toNat + 1) [high])

theorem finishAccess_effect {s : State} {h : HalfAccess} (hs : s.cpuAccess = some h) : FinishEffect s (s.finishAccess h) := by
  cases h with
  | load a low u =>
    cases u with
    | register rd => exact .reg _ _
    | compareSource rd => exact .compare _ _
    | compareDest v => exact .compare _ _
  | store a high => exact .store _ _ hs

/-- It writes nothing beyond the CPU's own state and RAM. -/
theorem FinishEffect.sameBeyondCpu {s t : State} (h : FinishEffect s t) : s.SameBeyondCpu t := by
  cases h <;> constructor <;> rfl

/-- No access is in progress after it. -/
theorem FinishEffect.cpuAccess {s t : State} (h : FinishEffect s t) : t.cpuAccess = none := by cases h <;> rfl

end Sys2Proof.Machine
end

