-- ==== Sys2Proof/Laws/PerInstr.lean ====
section
/-! SUPPORT. Statements made for every instruction, one lemma per constructor. -/

namespace Sys2Proof.Laws

/-- The encoder writes 0 to every bit the format ignores (spec/30_encoding.md R73, R86). -/
def IgnoredBitsZero.Statement (i : Instr) : Prop := encode i &&& ~~~usedBits i = 0

/-- A packed word has no bit of a mask in which each field is 0 or masked away. -/
theorem packWord_and_eq_zero {opnd : Word} {sm sr dm dr : Bool} {rd : RegId} {opc : Byte} {mask : DWord}
    (h8 : ∀ i < 8, mask.getLsbD i = false)
    (hrd : rd = 0 ∨ ∀ i, 8 ≤ i → i < 12 → mask.getLsbD i = false)
    (hdr : dr = false ∨ mask.getLsbD 12 = false) (hdm : dm = false ∨ mask.getLsbD 13 = false)
    (hsr : sr = false ∨ mask.getLsbD 14 = false) (hsm : sm = false ∨ mask.getLsbD 15 = false)
    (hop : opnd = 0 ∨ ∀ i, 16 ≤ i → i < 32 → mask.getLsbD i = false) :
    packWord opnd sm sr dm dr rd opc &&& mask = 0 := by
  apply BitVec.eq_of_getLsbD_eq
  intro i hi
  rw [BitVec.getLsbD_and, packWord_getLsbD]
  split_ifs with c8 c12 c13 c14 c15 c16
  · simp [h8 i c8]
  · rcases hrd with rfl | h
    · simp
    · simp [h i (by omega) c12]
  · rw [show i = 12 by omega]
    rcases hdr with h | h <;> simp only [h, Bool.and_false, Bool.false_and] <;> rfl
  · rw [show i = 13 by omega]
    rcases hdm with h | h <;> simp only [h, Bool.and_false, Bool.false_and] <;> rfl
  · rw [show i = 14 by omega]
    rcases hsr with h | h <;> simp only [h, Bool.and_false, Bool.false_and] <;> rfl
  · rw [show i = 15 by omega]
    rcases hsm with h | h <;> simp only [h, Bool.and_false, Bool.false_and] <;> rfl
  · rcases hop with rfl | h
    · simp
    · simp [h i (by omega) hi]

theorem IgnoredBitsZero.halt : IgnoredBitsZero.Statement .halt := 
  packWord_and_eq_zero (mask := ~~~0xFF#32) (by decide) (.inl rfl) (.inl rfl) (.inl rfl) (.inl rfl) (.inl rfl) (.inl rfl)

theorem IgnoredBitsZero.nop : IgnoredBitsZero.Statement .nop := 
  packWord_and_eq_zero (mask := ~~~0xFF#32) (by decide) (.inl rfl) (.inl rfl) (.inl rfl) (.inl rfl) (.inl rfl) (.inl rfl)

theorem IgnoredBitsZero.mov (m : ModeFlags) (rd : RegId) (opnd : Word) : IgnoredBitsZero.Statement (.mov m rd opnd) := by
  show encode (.mov m rd opnd) &&& ~~~0xFFFFFFFF#32 = 0
  simp

theorem IgnoredBitsZero.movi (m : ModeFlags) (rd : RegId) (opnd : Word) : IgnoredBitsZero.Statement (.movi m rd opnd) := by
  show encode (.movi m rd opnd) &&& ~~~0xFFFFFFFF#32 = 0
  simp

theorem IgnoredBitsZero.add (m : ModeFlags) (rd : RegId) (opnd : Word) : IgnoredBitsZero.Statement (.add m rd opnd) := by
  show encode (.add m rd opnd) &&& ~~~0xFFFFFFFF#32 = 0
  simp

theorem IgnoredBitsZero.sub (m : ModeFlags) (rd : RegId) (opnd : Word) : IgnoredBitsZero.Statement (.sub m rd opnd) := by
  show encode (.sub m rd opnd) &&& ~~~0xFFFFFFFF#32 = 0
  simp

theorem IgnoredBitsZero.jmp (target : Word) : IgnoredBitsZero.Statement (.jmp target) := 
  packWord_and_eq_zero (mask := ~~~0xFFFF00FF#32) (by decide) (.inl rfl) (.inl rfl) (.inl rfl) (.inl rfl) (.inl rfl) (.inr (by decide))

theorem IgnoredBitsZero.cmp (m : ModeFlags) (rd : RegId) (opnd : Word) : IgnoredBitsZero.Statement (.cmp m rd opnd) := by
  show encode (.cmp m rd opnd) &&& ~~~0xFFFFFFFF#32 = 0
  simp

theorem IgnoredBitsZero.breq (target : Word) : IgnoredBitsZero.Statement (.breq target) := 
  packWord_and_eq_zero (mask := ~~~0xFFFF00FF#32) (by decide) (.inl rfl) (.inl rfl) (.inl rfl) (.inl rfl) (.inl rfl) (.inr (by decide))

theorem IgnoredBitsZero.brneq (target : Word) : IgnoredBitsZero.Statement (.brneq target) := 
  packWord_and_eq_zero (mask := ~~~0xFFFF00FF#32) (by decide) (.inl rfl) (.inl rfl) (.inl rfl) (.inl rfl) (.inl rfl) (.inr (by decide))

theorem IgnoredBitsZero.stopc (rd : RegId) : IgnoredBitsZero.Statement (.stopc rd) := 
  packWord_and_eq_zero (mask := ~~~0xFFF#32) (by decide) (.inr (by decide)) (.inl rfl) (.inl rfl) (.inl rfl) (.inl rfl) (.inl rfl)

theorem IgnoredBitsZero.rst : IgnoredBitsZero.Statement .rst := 
  packWord_and_eq_zero (mask := ~~~0xFF#32) (by decide) (.inl rfl) (.inl rfl) (.inl rfl) (.inl rfl) (.inl rfl) (.inl rfl)

theorem IgnoredBitsZero.movmr (r : RegId) (v : Word) : IgnoredBitsZero.Statement (.movmr r v) := 
  packWord_and_eq_zero (mask := ~~~0xFFFF0FFF#32) (by decide) (.inr (by decide)) (.inl rfl) (.inl rfl) (.inl rfl) (.inl rfl) (.inr (by decide))

theorem IgnoredBitsZero.dimd (sr sm : Bool) (opnd : Word) : IgnoredBitsZero.Statement (.dimd sr sm opnd) := 
  packWord_and_eq_zero (mask := ~~~0xFFFFC0FF#32) (by decide) (.inl rfl) (.inl rfl) (.inl rfl) (.inr (by decide)) (.inr (by decide)) (.inr (by decide))

theorem IgnoredBitsZero.diclr : IgnoredBitsZero.Statement .diclr := 
  packWord_and_eq_zero (mask := ~~~0xFF#32) (by decide) (.inl rfl) (.inl rfl) (.inl rfl) (.inl rfl) (.inl rfl) (.inl rfl)

theorem IgnoredBitsZero.diwtrt : IgnoredBitsZero.Statement .diwtrt := 
  packWord_and_eq_zero (mask := ~~~0xFF#32) (by decide) (.inl rfl) (.inl rfl) (.inl rfl) (.inl rfl) (.inl rfl) (.inl rfl)

theorem IgnoredBitsZero.disetxy (r : RegId) (v : Word) : IgnoredBitsZero.Statement (.disetxy r v) := 
  packWord_and_eq_zero (mask := ~~~0xFFFF0FFF#32) (by decide) (.inr (by decide)) (.inl rfl) (.inl rfl) (.inl rfl) (.inl rfl) (.inr (by decide))

theorem IgnoredBitsZero.dichar (sr sm : Bool) (opnd : Word) : IgnoredBitsZero.Statement (.dichar sr sm opnd) := 
  packWord_and_eq_zero (mask := ~~~0xFFFFC0FF#32) (by decide) (.inl rfl) (.inl rfl) (.inl rfl) (.inr (by decide)) (.inr (by decide)) (.inr (by decide))

theorem IgnoredBitsZero.diputpixel (sr sm : Bool) (opnd : Word) : IgnoredBitsZero.Statement (.diputpixel sr sm opnd) := 
  packWord_and_eq_zero (mask := ~~~0xFFFFC0FF#32) (by decide) (.inl rfl) (.inl rfl) (.inl rfl) (.inr (by decide)) (.inr (by decide)) (.inr (by decide))

end Sys2Proof.Laws
end

