-- ==== Sys2Proof/Laws/Step.lean ====
section
/-! SUPPORT. What a CPU cycle, an I/O agent's access, a frame's cell and a VDC step can do, said once, and how a step follows
from the schedule. -/

namespace Sys2Proof.Machine

theorem State.running_iff (s : State) : s.running = true ↔ s.resetHold = false ∧ s.panic = false := by
  simp [State.running]

/-- Taking a turn off the schedule changes nothing else. -/
theorem State.dropTurn_running (s : State) : s.dropTurn.running = s.running := rfl

/-- A step is the turn whose turn it is. -/
theorem step_eq {s : State} {t : Turn} (h : s.nextTurn = t) : step s = runTurn t s.dropTurn := by rw [step, h]

theorem State.nextTurn_cons {s : State} {t : Turn} {ts : List Turn} (h : s.sched = t :: ts) : s.nextTurn = t := by
  simp [State.nextTurn, h]

theorem State.dropTurn_cons {s : State} {t : Turn} {ts : List Turn} (h : s.sched = t :: ts) :
    s.dropTurn = { s with sched := ts } := by
  simp [State.dropTurn, h]

/-! ## The CPU cycle -/

theorem State.stray_iff (s : State) : s.stray = true ↔ 65532 < s.pc.toNat := by
  simp [State.stray, Config.memSize, Config.iLen]

/-- All that the CPU's step can do (spec/40_cpu_cycle.md R90, 20_memory.md R52). -/
inductive CycleEffect (s : State) : State → Prop where
  | finished (a : HalfAccess) (ha : s.cpuAccess = some a) : CycleEffect s (s.finishAccess a).aggregate
  | stray (ha : s.cpuAccess = none) (h : 65532 < (s.pc + 4).toNat) : CycleEffect s (s.advance.raise .prg).aggregate
  | pending (ha : s.cpuAccess = none) (h : (s.pc + 4).toNat ≤ 65532) (he : s.exc ≠ 0) :
      CycleEffect s s.advance.fetch.aggregate
  | ran (ha : s.cpuAccess = none) (h : (s.pc + 4).toNat ≤ 65532) (he : s.exc = 0) (i : Instr)
      (hd : decode s.advance.fetch.ir = .ok i) (u : State)
      (hu : exec i s.advance.fetch.startDecode = .next u) : CycleEffect s u.endCycle
  | unrecognized (ha : s.cpuAccess = none) (h : (s.pc + 4).toNat ≤ 65532) (he : s.exc = 0) (e : DecodeError)
      (hd : decode s.advance.fetch.ir = .error e) : CycleEffect s (s.advance.fetch.startDecode.raise .instr).aggregate

theorem dispatch_ok {s : State} {i : Instr} (h : decode s.ir = .ok i) : dispatch s = exec i s := by
  unfold dispatch
  rw [h]

theorem dispatch_error {s : State} {e : DecodeError} (h : decode s.ir = .error e) : dispatch s = .next (s.raise .instr) := by
  unfold dispatch
  rw [h]

theorem State.endCycle_open {s : State} (h : s.cpuAccess ≠ none) : s.endCycle = s := by
  simp [State.endCycle, Option.isSome_iff_ne_none, h]

theorem State.endCycle_closed {s : State} (h : s.cpuAccess = none) : s.endCycle = s.aggregate := by
  simp [State.endCycle, h]

/-- The CPU's step always answers a next state. -/
theorem cpuTurn_effect {s : State} (hr : s.running = true) : ∃ t, cpuTurn s = .next t ∧ CycleEffect s t := by
  unfold cpuTurn
  rw [if_pos hr]
  cases ha : s.cpuAccess with
  | some a => exact ⟨_, rfl, .finished a ha⟩
  | none =>
    simp only [startCycle]
    by_cases hs : s.advance.stray = true
    · exact ⟨_, if_pos hs, .stray ha ((State.stray_iff _).1 hs)⟩
    · have h : (s.pc + 4).toNat ≤ 65532 := Nat.not_lt.1 (mt (State.stray_iff s.advance).2 hs)
      by_cases he : s.exc = 0
      · cases hd : decode s.advance.fetch.ir with
        | ok i =>
          obtain ⟨u, hu, -⟩ := exec_effect i s.advance.fetch.startDecode
          have hx : dispatch s.advance.fetch.startDecode = .next u :=
            (dispatch_ok (s := s.advance.fetch.startDecode) hd).trans hu
          exact ⟨u.endCycle, by simp only [hs]; rw [if_neg (by simp), if_neg (by simpa using he), hx]; rfl,
            .ran ha h he i hd u hu⟩
        | error e =>
          have hx := dispatch_error (s := s.advance.fetch.startDecode) hd
          have hc : (s.advance.fetch.startDecode.raise .instr).endCycle = (s.advance.fetch.startDecode.raise .instr).aggregate :=
            State.endCycle_closed ha
          exact ⟨_, by simp only [hs]; rw [if_neg (by simp), if_neg (by simpa using he), hx, ← hc]; rfl,
            .unrecognized ha h he e hd⟩
      · exact ⟨s.advance.fetch.aggregate, by simp only [hs]; rw [if_neg (by simp), if_pos (by simpa using he)],
          .pending ha h he⟩

/-- A cycle that is not enabled changes nothing. -/
theorem cpuTurn_stopped {s : State} (hr : s.running = false) : cpuTurn s = .next s := by simp [cpuTurn, hr]

/-! ## The I/O agents -/

/-- All that IOIN's store can do (spec/47_ioport.md R192, 20_memory.md R52). -/
theorem State.storeInput_cases (s : State) (v : Word) :
    (s.platform.atomic16 = true ∧ s.storeInput v = s.memWrite .int 0xFC v) ∨
      (s.platform.atomic16 = false ∧
        s.storeInput v = { s.writeBytes 0xFC [v.extractLsb' 0 8] with ioinHigh := some (v.extractLsb' 8 8) }) := by
  unfold State.storeInput
  cases s.platform.atomic16 <;> simp [Config.ioIn]

/-- All that IOOUT's reading can do (R193, R52). -/
theorem State.sampleOutput_cases (s : State) :
    (s.platform.atomic16 = true ∧ s.sampleOutput = s.send (s.readWord 0xFE)) ∨
      (s.platform.atomic16 = false ∧ s.sampleOutput = { s with iooutLow := some (s.readByte 0xFE) }) := by
  unfold State.sampleOutput
  cases s.platform.atomic16 <;> simp [Config.ioOut]

/-! ## RENDER -/

@[simp] theorem FbCell.inFrame_text (i : Nat) : (FbCell.text i).inFrame = decide (i < 2000) := rfl
@[simp] theorem FbCell.inFrame_pixel (i : Nat) : (FbCell.pixel i).inFrame = decide (i < 307200) := rfl

theorem FbCell.inFrame_iff (c : FbCell) : c.inFrame = true ↔ CellOfSomeMode c := by
  cases c <;> simp [CellOfSomeMode]

/-- The cells of every mode's frame can be read in the walk (46_vdc.md R181). -/
theorem VMode.inFrame_of_mem_frameCells {v : VMode} {c : FbCell} (h : c ∈ v.frameCells) : c.inFrame = true := by
  cases v <;> simp [VMode.frameCells, VMode.cols, VMode.rows] at h <;> obtain ⟨i, hi, rfl⟩ := h <;> simp <;> omega

/-- All that a reading in the walk can do. -/
theorem renderSampleTurn_cases (c : FbCell) (s : State) :
    (s.retrace = true ∧ CellOfSomeMode c ∧
        renderSampleTurn c s = .next { s with samples := (c, s.cellNow c) :: s.samples }) ∨
      ((s.retrace = false ∨ ¬CellOfSomeMode c) ∧ renderSampleTurn c s = .next s) := by
  unfold renderSampleTurn
  by_cases h : (s.retrace && c.inFrame) = true
  · have h' := Bool.and_eq_true_iff.1 h
    exact .inl ⟨h'.1, (FbCell.inFrame_iff c).1 h'.2, if_pos h⟩
  · refine .inr ⟨?_, if_neg h⟩
    rw [← FbCell.inFrame_iff]
    cases hr : s.retrace <;> simp_all

/-- The value a frame shows for a cell: of the latest reading, or the present one (46_vdc.md R181). -/
theorem State.cellShown_cases (s : State) (c : FbCell) :
    ((∀ p ∈ s.samples, p.1 ≠ c) ∧ s.cellShown c = s.cellNow c) ∨
      ∃ b older newer, s.samples = newer ++ (c, b) :: older ∧ (∀ p ∈ newer, p.1 ≠ c) ∧ s.cellShown c = b := by
  unfold State.cellShown
  generalize s.samples = l
  induction l with
  | nil => simp
  | cons p l ih =>
    by_cases hp : p.1 = c
    · exact .inr ⟨p.2, l, [], by simp [← hp], by simp, by simp [hp]⟩
    · rcases ih with ⟨h, e⟩ | ⟨b, older, newer, rfl, h, e⟩
      · exact .inl ⟨by simpa [hp] using h, by simpa [List.find?_cons, hp] using e⟩
      · exact .inr ⟨b, older, p :: newer, rfl, by simpa [hp] using h, by simpa [List.find?_cons, hp] using e⟩

/-! ## The VDC -/

theorem clear_text {s : State} {h rows : Nat} (hm : TextMode s.vmode h rows) :
    s.clear = { s with mem := fillCells s.mem 0xF000 (h * rows) 0x20 } := by
  rcases hm with ⟨hv, rfl, rfl⟩ | ⟨hv, rfl, rfl⟩ <;> simp [State.clear, hv]

theorem clear_pixel {s : State} (hm : s.vmode = .pixel) : s.clear = { s with pix := fillCells s.pix 0 307200 0 } := by
  simp [State.clear, hm]

/-- A cursor inside a mode names a cell inside it (spec/46_vdc.md R172: "cannot leave the framebuffer"). -/
theorem cell_lt {x y h rows : Nat} (hx : x < h) (hy : y < rows) : y * h + x < h * rows := by
  calc y * h + x < y * h + h := by omega
    _ = (y + 1) * h := by ring
    _ ≤ rows * h := Nat.mul_le_mul_right h hy
    _ = h * rows := Nat.mul_comm _ _

/-- All that a VDC instruction can do. -/
inductive VdcEffect (s : State) : State → Prop where
  | none : VdcEffect s s
  | fault : VdcEffect s s.raiseVdc
  | mode (v : VMode) (hv : v ≠ .off) (hp : v = .pixel → s.platform.hasPixel = true) :
      VdcEffect s (({ s with vmode := v } : State).clear)
  | clear (hv : s.vmode ≠ .off) : VdcEffect s s.clear
  | cursor (x y : Word) (hx : x.toNat < 640) (hy : y.toNat < 480) : VdcEffect s { s with cx := x, cy := y }
  | glyph (i : Nat) (hi : i < 2000) (b : Byte) : VdcEffect s (s.writeBytes (0xF000 + i) [b])
  | pixel (i : Nat) (hi : i < 307200) (b : Byte) : VdcEffect s { s with pix := blit s.pix i [b] }

theorem VMode.contains_iff (v : VMode) (x y : Word) : v.contains x y = true ↔ x.toNat < v.cols ∧ y.toNat < v.rows := by
  simp [VMode.contains]

theorem VMode.cols_le (v : VMode) : v.cols ≤ 640 ∧ v.rows ≤ 480 := by cases v <;> decide

theorem VMode.ofCode_ne_off {p : Bool} {b : Byte} {v : VMode} (h : VMode.ofCode p b = some v) :
    v ≠ .off ∧ (v = .pixel → p = true) := by
  unfold VMode.ofCode at h
  split_ifs at h with h1 h2 h3
  · injection h with h; subst h; simp
  · injection h with h; subst h; simp
  · injection h with h; subst h; simp [h3.2]

/-- Every display instruction answers a next state in the VDC, by one of the effects above. -/
theorem vdcExec_effect {i : Instr} (hi : i.isDisplay = true) (s : State) : ∃ t, vdcExec i s = .next t ∧ VdcEffect s t := by
  cases i with
  | dimd sr sm opnd =>
    refine ⟨_, rfl, ?_⟩
    unfold vdcDimd
    split
    · exact .fault
    · split
      · exact .fault
      · rename_i v hv
        exact .mode v (VMode.ofCode_ne_off hv).1 (VMode.ofCode_ne_off hv).2
  | diclr =>
    refine ⟨_, rfl, ?_⟩
    unfold vdcDiclr
    split
    · exact .fault
    · rename_i h
      exact .clear h
  | diwtrt =>
    refine ⟨_, rfl, ?_⟩
    unfold vdcDiwtrt
    split
    · exact .fault
    · exact .none
  | disetxy rx ry =>
    refine ⟨_, rfl, ?_⟩
    unfold vdcDisetxy
    split
    · exact .fault
    · split
      · exact .fault
      · split
        · rename_i h
          have h := (VMode.contains_iff _ _ _).1 h
          have := VMode.cols_le s.vmode
          exact .cursor _ _ (by omega) (by omega)
        · exact .fault
  | dichar sr sm opnd =>
    refine ⟨_, rfl, ?_⟩
    unfold vdcDichar
    split
    · exact .fault
    · split
      · exact .fault
      · split
        · exact .fault
        · split
          · rename_i hoff _ b _ hpix h
            have h := (VMode.contains_iff _ _ _).1 h
            have hc : s.cursorCell < s.vmode.cols * s.vmode.rows := cell_lt h.1 h.2
            have hb : s.vmode.cols * s.vmode.rows ≤ 2000 := by
              cases hv : s.vmode <;> simp_all [VMode.cols, VMode.rows]
            exact .glyph _ (by omega) b
          · exact .fault
  | diputpixel sr sm opnd =>
    refine ⟨_, rfl, ?_⟩
    unfold vdcDiputpixel
    split
    · exact .fault
    · split
      · exact .fault
      · split
        · split
          · rename_i _ _ b _ hpix h
            have h := (VMode.contains_iff _ _ _).1 h
            have hc : s.cursorCell < s.vmode.cols * s.vmode.rows := cell_lt h.1 h.2
            rw [hpix] at hc
            exact .pixel _ hc b
          · exact .fault
        · exact .fault
  | _ => cases hi

/-- All that a VDC turn can do while the block runs: nothing (held, or the implicit `diwait`), or pop a word and execute
it, or meet a word that no run puts there. -/
theorem vdcTurn_cases {s : State} (hr : s.running = true) :
    (vdcTurn s = .next s ∧ (s.q = [] ∨ s.vdcHeld = true)) ∨
      (∃ w rest i, s.q = w :: rest ∧ decode w = .ok i ∧ s.vdcHeld = false ∧ vdcTurn s = vdcExec i { s with q := rest }) ∨
      (∃ w rest e, s.q = w :: rest ∧ decode w = .error e ∧ vdcTurn s = .fault .foreignQueueWord) := by
  unfold vdcTurn
  by_cases hh : s.vdcHeld = true
  · exact .inl ⟨by simp [hh], .inr hh⟩
  · have hc : (s.running && !s.vdcHeld) = true := by simp [hr, hh]
    rw [if_pos hc]
    cases hq : s.q with
    | nil => exact .inl ⟨rfl, .inl rfl⟩
    | cons w rest =>
      cases hd : decode w with
      | ok i => exact .inr (.inl ⟨w, rest, i, rfl, hd, by simpa using hh, by simp [hd]⟩)
      | error e => exact .inr (.inr ⟨w, rest, e, rfl, hd, by simp [hd]⟩)

theorem vdcTurn_stopped {s : State} (hr : s.running = false) : vdcTurn s = .next s := by simp [vdcTurn, hr]

end Sys2Proof.Machine
end

