-- ==== Sys2Proof/Tests/Slice0.lean ====
section
/-! SUPPORT. The model's own tests. Every expected value comes from the spec: words from the notation of
spec/30_encoding.md R86, outcomes from the vectors V-… of spec/95_test_vectors.md or worked from the rule a test names.
The second half shows, for each statement of Certificates/Slice0/Obligations.lean, that its hypotheses can be met. -/

open Sys2Proof Sys2Proof.Machine

namespace Sys2Proof.Tests

set_option Elab.async false

/-! ## Helpers -/

/-- The flags of the forms `op rD, #imm`, `op rD, rS`, `op rD, [addr]`, `op [addr], rS` and of the two illegal forms (R75). -/
def regImm : ModeFlags := ⟨true, false, false, false⟩
def regReg : ModeFlags := ⟨true, false, true, false⟩
def regMem : ModeFlags := ⟨true, false, false, true⟩
def memReg : ModeFlags := ⟨false, true, false, false⟩
def neither : ModeFlags := ⟨false, false, false, false⟩
def both : ModeFlags := ⟨true, true, false, false⟩

/-- Released and running, nothing scheduled. -/
def running : State := { State.reset with resetHold := false }

/-- A word at 0x0100, where the next cycle fetches it (`pc` = 0x00FC), on the CPU's turn. -/
def atWord (w : Nat) : State := State.reset.withFetchWord 32 w

/-- The same with one register set. -/
def withReg (r : RegId) (v : Word) (s : State) : State := s.setReg r v

/-- The same with bytes of RAM set. -/
def withBytes (a : Nat) (vs : List Byte) (s : State) : State := s.writeBytes a vs

/-- The same on a platform with `ATOMIC16` false. -/
def torn (s : State) : State := { s with platform := { s.platform with atomic16 := false } }

/-- One turn scheduled. -/
def onTurn (t : Turn) (s : State) : State := { s with sched := [t] }

/-- A running machine whose VDC is about to execute one word, in a mode, with the cursor at a place. -/
def vdcAt (v : VMode) (x y : Word) (w : DWord) : State :=
  { running with vmode := v, cx := x, cy := y, q := [w], sched := [.vdc] }

/-- The outcome is a next state in which a check holds. -/
def answers (r : Result) (check : State → Bool) : Bool :=
  match r with
  | .next t => check t
  | .fault _ => false
  | .refused _ => false

/-! ## Well-formedness: one ill-formed term for each check (30_encoding.md R80) -/

theorem test_wf_no_destination : Instr.wellFormed (.mov neither 1 0x42) = false := by decide
theorem test_wf_two_destinations : Instr.wellFormed (.movi both 1 0x2000) = false := by decide
theorem test_wf_source_register_16 : Instr.wellFormed (.add regReg 1 16) = false := by decide
theorem test_wf_target_16 : Instr.wellFormed (.jmp 16) = false := by decide
theorem test_wf_target_255 : Instr.wellFormed (.breq 0x00FF) = false := by decide
theorem test_wf_movmr_register_16 : Instr.wellFormed (.movmr 4 16) = false := by decide
theorem test_wf_disetxy_register_16 : Instr.wellFormed (.disetxy 1 16) = false := by decide
theorem test_wf_vdc_source_register_16 : Instr.wellFormed (.dichar true false 16) = false := by decide
theorem test_wf_mode_byte_4 : Instr.wellFormed (.dimd false false 4) = false := by decide
theorem test_wf_mode_byte_0 : Instr.wellFormed (.dimd false false 0x0100) = false := by decide
theorem test_wf_accepts :
    Instr.wellFormed (.cmp regReg 1 15) && Instr.wellFormed (.sub memReg 4 0x2000) && Instr.wellFormed (.brneq 0x0100) &&
      Instr.wellFormed (.jmp 15) && Instr.wellFormed (.dimd false false 0x0102) && Instr.wellFormed (.dimd true false 5) =
    true := by decide

/-! ## Decoding: a word of the spec for every constructor -/

theorem test_decode_halt : decode 0xFFFFFF00 = .ok .halt := by decide
theorem test_decode_nop : decode 0x00000001 = .ok .nop := by decide
theorem test_decode_mov : decode 0x20039602 = .ok (.mov regMem 6 0x2003) := by decide
theorem test_decode_mov_all_flags : decode 0x0002D102 = .ok (.mov ⟨true, false, true, true⟩ 1 2) := by decide
theorem test_decode_movi : decode 0x20022103 = .ok (.movi memReg 1 0x2002) := by decide
theorem test_decode_add : decode 0x00101404 = .ok (.add regImm 4 0x10) := by decide
theorem test_decode_sub : decode 0x00025405 = .ok (.sub regReg 4 2) := by decide
theorem test_decode_jmp : decode 0x0200FF06 = .ok (.jmp 0x0200) := by decide
theorem test_decode_cmp : decode 0x000A5B07 = .ok (.cmp regReg 11 10) := by decide
theorem test_decode_breq : decode 0x01400008 = .ok (.breq 0x0140) := by decide
theorem test_decode_brneq : decode 0x011C0009 = .ok (.brneq 0x011C) := by decide
theorem test_decode_stopc : decode 0xFFFFF70A = .ok (.stopc 7) := by decide
theorem test_decode_rst : decode 0x0000000B = .ok .rst := by decide
theorem test_decode_movmr : decode 0x0003F40C = .ok (.movmr 4 3) := by decide
theorem test_decode_dimd : decode 0x20008010 = .ok (.dimd false true 0x2000) := by decide
theorem test_decode_diclr : decode 0x00000011 = .ok .diclr := by decide
theorem test_decode_diwtrt : decode 0x00000012 = .ok .diwtrt := by decide
theorem test_decode_disetxy : decode 0x0002F113 = .ok (.disetxy 1 2) := by decide
theorem test_decode_dichar : decode 0x00044014 = .ok (.dichar true false 4) := by decide
theorem test_decode_diputpixel : decode 0x00034015 = .ok (.diputpixel true false 3) := by decide
theorem test_decode_0D : decode 0x0000000D = .error (.unrecognizedOpcode 0x0D) := by decide
theorem test_decode_0F : decode 0x0000000F = .error (.unrecognizedOpcode 0x0F) := by decide
theorem test_decode_16 : decode 0x00000016 = .error (.unrecognizedOpcode 0x16) := by decide
theorem test_decode_FF : decode 0x123456FF = .error (.unrecognizedOpcode 0xFF) := by decide
theorem test_decode_truncated : decodeBytes [0x02, 0x12, 0xAA] = .error .truncated := by decide
/-- P1: 0x01AA1202 lies in memory as 02 12 AA 01. -/
theorem test_decode_bytes : decodeBytes [0x02, 0x12, 0xAA, 0x01] = .ok (.mov regImm 2 0x01AA) := by decide
theorem test_table_word : decodeTableWord 32 0x01AA1202 = some (.mov regImm 2 0x01AA) := by decide
theorem test_encode_add_mem : encode (.add memReg 4 0x2000) = 0x20002404 := by decide
theorem test_encode_disetxy : encode (.disetxy 1 2) = 0x00020113 := by decide
theorem test_encode_dichar_mem : encode (.dichar false true 0x0002) = 0x00028014 := by decide

/-! ## One CPU cycle (95_test_vectors.md 2.1 to 2.5) -/

/-- V-S1. -/
theorem test_halt : answers (step (atWord 0x00000000)) (fun t => t.panic && t.exc == 0 && t.pc == 0x100) = true := by
  decide +kernel
/-- V-S3. -/
theorem test_nop : answers (step (atWord 0x00000001)) (fun t =>
    t == { atWord 0x00000001 with pc := 0x100, ir := 0x00000001, sched := [] }) = true := by decide +kernel
/-- V-M1. -/
theorem test_mov_truncates : answers (step (withReg 1 0xFFFF (atWord 0x12341102))) (fun t => t.reg 1 == 0x0034) = true := by
  decide +kernel
/-- V-M20's kind for `mov`, V-M6. -/
theorem test_mov_read_only : answers (step (withReg 2 0x12AA (atWord 0x00FD2202))) (fun t =>
    t.exc == 0x02 && t.panic && t.readByte 0xFD == 0) = true := by decide +kernel
/-- V-M16. -/
theorem test_movi_last_word : answers (step (withBytes 0xFFFE [0xCD, 0xAB] (atWord 0xFFFE9103))) (fun t =>
    t.reg 1 == 0xABCD && t.exc == 0) = true := by decide +kernel
/-- V-M18. -/
theorem test_movi_store_65535 : answers (step (withReg 1 0x5555 (atWord 0xFFFF2103))) (fun t =>
    t.exc == 0x02 && t.readByte 0xFFFF == 0) = true := by decide +kernel
/-- V-M25. -/
theorem test_movmr_same_register : answers (step (withBytes 0x2000 [0x7F] (withReg 3 0x2000 (atWord 0x0003030C))))
    (fun t => t.reg 3 == 0x007F) = true := by decide +kernel
/-- V-M27. -/
theorem test_movmr_index_16 : answers (step (withReg 4 0x1111 (atWord 0x0010040C))) (fun t =>
    t.exc == 0x04 && t.reg 4 == 0x1111) = true := by decide +kernel
/-- V-A5. -/
theorem test_add_same_register : answers (step (withReg 1 0x0180 (atWord 0x00015104))) (fun t =>
    t.reg 1 == 0x0200 && t.cr == 0x40) = true := by decide +kernel
/-- V-A7. -/
theorem test_add_memory_wraps : answers (step (withBytes 0x2000 [0xF8, 0x33] (withReg 4 0x0110 (atWord 0x20002404))))
    (fun t => t.readByte 0x2000 == 0x08 && t.readByte 0x2001 == 0x33) = true := by decide +kernel
/-- V-A12. -/
theorem test_sub_wraps : answers (step (atWord 0x00011105)) (fun t => t.reg 1 == 0xFFFF && t.exc == 0) = true := by
  decide +kernel
/-- V-A17. -/
theorem test_sub_no_borrow : answers (step (withBytes 0xFE [0x00, 0x01] (withReg 4 1 (atWord 0x00FE2405)))) (fun t =>
    t.readByte 0xFE == 0xFF && t.readByte 0xFF == 0x01) = true := by decide +kernel
/-- V-C10. -/
theorem test_cmp_memory : answers (step (withBytes 0x2000 [0x02, 0x00] (withReg 1 0x0001 (atWord 0x20002107)))) (fun t =>
    t.cr == 0x22) = true := by decide +kernel
/-- V-C13. -/
theorem test_cmp_fault_clears : answers (step { atWord 0x00105107 with cr := 0x12 }) (fun t =>
    t.cr == 0x40 && t.exc == 0x04) = true := by decide +kernel
/-- V-B4. -/
theorem test_jmp_register_below_4 : answers (step (withReg 0 2 (atWord 0x00000006))) (fun t => t.pc == 0xFFFFFFFE) = true := by
  decide +kernel
/-- V-B7. -/
theorem test_jmp_bad_target : answers (step (atWord 0x00FF0006)) (fun t => t.exc == 0x01 && t.pc == 0x100) = true := by
  decide +kernel
/-- V-B10, at 0x0100. -/
theorem test_breq_taken : answers (step { atWord 0x02000008 with cr := 0x05 }) (fun t =>
    t.cr == 0x40 && t.pc == 0x1FC) = true := by decide +kernel
/-- V-B18, at 0x0100. -/
theorem test_breq_bad_target : answers (step { atWord 0x00200008 with cr := 0x05 }) (fun t =>
    t.cr == 0x05 && t.exc == 0x01 && t.pc == 0x100) = true := by decide +kernel
/-- V-B16, at 0x0100. -/
theorem test_brneq_taken : answers (step { atWord 0x02000009 with cr := 0x22 }) (fun t =>
    t.cr == 0x40 && t.pc == 0x1FC) = true := by decide +kernel
/-- V-B17, at 0x0100. -/
theorem test_brneq_undefined : answers (step (atWord 0x02000009)) (fun t => t.cr == 0x40 && t.pc == 0x100) = true := by
  decide +kernel
/-- V-S4, at 0x0100. -/
theorem test_stopc : answers (step (atWord 0x0000070A)) (fun t => t.reg 7 == 0x0100) = true := by decide +kernel
/-- V-S6. -/
theorem test_rst : answers (step (atWord 0x0000000B)) (fun t => t.cpuExc == 0x08 && t.exc == 0x08 && t.panic) = true := by
  decide +kernel
/-- V-S8. -/
theorem test_unrecognized : answers (step (atWord 0x00000016)) (fun t => t.exc == 0x01 && t.q == []) = true := by
  decide +kernel
/-- V-S11. -/
theorem test_stray : answers (step { running with pc := 0xFFFC, ir := 0xDEADBEEF }) (fun t =>
    t.pc == 0x10000 && t.cpuExc == 0x08 && t.exc == 0x08 && t.panic && t.ir == 0xDEADBEEF) = true := by decide +kernel
/-- V-S13. -/
theorem test_last_unaligned_fetch : answers (step (withBytes 0xFFFB [1] { running with pc := 0xFFF7 })) (fun t =>
    t.pc == 0xFFFB && t.exc == 0) = true := by decide +kernel
/-- V-S15. -/
theorem test_peripheral_fault : answers (step { atWord 0x00771103 with vdcExc := 0x10 }) (fun t =>
    t.reg 1 == 0x77 && t.exc == 0x10 && t.panic) = true := by decide +kernel
/-- V-S18. -/
theorem test_pending : answers (step { atWord 0x00771103 with exc := 0x10 }) (fun t =>
    t.reg 1 == 0 && t.ir == 0x00771103 && t.panic) = true := by decide +kernel
/-- V-Q1. -/
theorem test_forward : answers (step { atWord 0x00410014 with q := [1, 2] }) (fun t => t.q == [1, 2, 0x00410014]) = true := by
  decide +kernel
/-- V-Q2, the 33rd push. -/
theorem test_forward_full : answers (step { atWord 0x00410014 with q := List.replicate 32 0x00410014 }) (fun t =>
    t.exc == 0x10 && t.panic && t.q == List.replicate 32 0x00410014) = true := by decide +kernel

/-! ## One VDC step (2.6) -/

/-- V-D1. -/
theorem test_dimd_text : answers (step (vdcAt .off 0 0 0x00010010)) (fun t =>
    t.vmode == .text8x12 && t.readByte 0xF000 == 0x20 && t.readByte 0xF05F == 0x20 && t.readByte 0xF060 == 0) = true := by
  decide +kernel
/-- V-D5. -/
theorem test_dimd_invalid : answers (step (vdcAt .off 0 0 0x00040010)) (fun t => t.vmode == .off && t.vdcExc == 0x10) =
    true := by decide +kernel
/-- V-D12. -/
theorem test_diclr : answers (step (withBytes 0xF05F [0x42, 0x43] (vdcAt .text8x12 0 0 0x00000011))) (fun t =>
    t.readByte 0xF05F == 0x20 && t.readByte 0xF060 == 0x43) = true := by decide +kernel
/-- V-D11. -/
theorem test_diclr_disabled : answers (step (vdcAt .off 0 0 0x00000011)) (fun t => t.vdcExc == 0x10 && t.q == []) = true := by
  decide +kernel
/-- V-D15. -/
theorem test_diwtrt_held : answers (step { vdcAt .text80x25 0 0 0x00000012 with retrace := true }) (fun t =>
    t.q == [0x00000012] && t.vdcExc == 0) = true := by decide +kernel
/-- V-D14. -/
theorem test_diwtrt_free : answers (step (vdcAt .text80x25 0 0 0x00000012)) (fun t => t.q == [] && t.vdcExc == 0) = true := by
  decide +kernel
/-- V-D18. -/
theorem test_disetxy_last_cell : answers (step (withReg 2 24 (withReg 1 79 (vdcAt .text80x25 0 0 0x00020113)))) (fun t =>
    t.cx == 79 && t.cy == 24) = true := by decide +kernel
/-- V-D20. -/
theorem test_disetxy_outside : answers (step (withReg 2 25 (vdcAt .text80x25 5 6 0x00020113))) (fun t =>
    t.cx == 5 && t.cy == 6 && t.vdcExc == 0x10) = true := by decide +kernel
/-- V-D30. -/
theorem test_dichar_register : answers (step (withReg 4 0x1258 (vdcAt .text80x25 79 24 0x00044014))) (fun t =>
    t.readByte 0xF7CF == 0x58) = true := by decide +kernel
/-- V-D35. -/
theorem test_dichar_cursor_outside : answers (step (vdcAt .text8x12 8 0 0x00410014)) (fun t =>
    t.vdcExc == 0x10 && t.mem == []) = true := by decide +kernel
/-- V-D36. -/
theorem test_diputpixel : answers (step (vdcAt .pixel 10 2 0x00070015)) (fun t => t.pix == [(1290, 7)]) = true := by
  decide +kernel
/-- V-D37. -/
theorem test_diputpixel_text : answers (step (vdcAt .text80x25 0 0 0x00070015)) (fun t => t.vdcExc == 0x10 && t.pix == []) =
    true := by decide +kernel

/-! ## The other agents (2.7) -/

/-- V-I2. -/
theorem test_ioin : answers (step (onTurn (.ioin (some 70000)) running)) (fun t =>
    t.readByte 0xFC == 0x70 && t.readByte 0xFD == 0x11) = true := by decide +kernel
/-- V-I3. -/
theorem test_ioin_broken : answers (step (onTurn (.ioin none) running)) (fun t => t.ioExc == 0x20 && t.mem == []) = true := by
  decide +kernel
/-- R52: `movi r1, [IO_IN]` of 0x1122, with IOIN's 0x3344 between its two bytes, loads 0x3322. -/
theorem test_torn_load : answers (Host.Core.run Sys2Proof.core 3
      { withBytes 0xFC [0x22, 0x11] (torn (atWord 0x00FC9103)) with sched := [.cpu, .ioin (some 0x3344), .ioinFinish] })
    (fun t => t.reg 1 == 0 && t.readByte 0xFC == 0x44 && t.readByte 0xFD == 0x33 &&
      answers (step t) (fun u => u.reg 1 == 0x3322 && u.pc == 0x100 && u.cpuAccess == none)) = true := by decide +kernel
/-- R52: `movi [IO_OUT], r1` stores its low byte first; `cmp [0x2000], r1` reads its low byte first, `cr` undefined meanwhile. -/
theorem test_torn_store_and_compare :
    answers (step (torn (withReg 1 0x1234 (atWord 0x00FE2103)))) (fun t =>
      t.readByte 0xFE == 0x34 && t.readByte 0xFF == 0 && t.cpuAccess == some (.store 0xFE 0x12) &&
        answers (step t) (fun u => u.readByte 0xFF == 0x12 && u.cpuAccess == none)) &&
      answers (step (torn (withBytes 0x2000 [2, 0] (withReg 1 1 (atWord 0x20002107))))) (fun t =>
        t.cr == 0x40 && answers (step (withBytes 0x2000 [0, 1] t)) (fun u => u.cr == 0x22 && u.cpuAccess == none)) = true := by
  decide +kernel
/-- R52: IOOUT's torn read hands over the byte read first with the byte read last. -/
theorem test_torn_ioout : answers (step (torn (onTurn (.ioout true) (withBytes 0xFE [0x34, 0x12] running)))) (fun t =>
    t.outStream == [] && answers (step (onTurn (.iooutFinish true) (withBytes 0xFE [0, 0x99] t))) (fun u =>
      u.outStream == [0x9934] && u.iooutLow == none)) = true := by decide +kernel
/-- V-I4. -/
theorem test_ioout : answers (step (onTurn (.ioout true) (withBytes 0xFE [0x34, 0x12] running))) (fun t =>
    t.outStream == [0x1234]) = true := by decide +kernel
/-- V-R1: release, then the zero word at `ROM_START` is `halt`, then the final stop. -/
theorem test_reset_run : answers (Host.Core.run Sys2Proof.core 2 Sys2Proof.core.reset) (fun t =>
    t.pc == 0x100 && t.panic && t.exc == 0) = true := by decide +kernel
/-- V-R2's first boot: a ROM of one `rst`. -/
theorem test_rom_rst : answers (step (onTurn .endOfRun { running with
      panic := true, exc := 0x08, platform := { Platform.default with romImage := [0x0B, 0, 0, 0] } })) (fun t =>
    t.resetHold && t.exc == 0 && !t.panic && t.mem == [(0x100, 0x0B)]) = true := by decide +kernel
/-- S6: `code_size` 49153 is rejected. -/
theorem test_loader_too_large : answers (step (onTurn (.loadOpen
      [0, 0, 0, 0, 0, 0, 0, 0, 0, 0, 0, 0, 0x01, 0xC0, 0, 0]) running)) (fun t =>
    t.extExc == 0x08 && t.mem == [] && t.load == none) = true := by decide +kernel
/-- R238: a copied byte lands at `PRG_START` + its index. -/
theorem test_loader_copy : answers (step (onTurn (.loadCopy 1) { running with load := some [(0x4000, 7), (0x4001, 9)] }))
    (fun t => t.readByte 0x4001 == 9 && t.readByte 0x4000 == 0 && t.load == some [(0x4000, 7)]) = true := by decide +kernel
/-- R181: the finish sends the frame of the mode in force. -/
theorem test_render_finish : answers (step (onTurn .renderFinish (withBytes 0xF001 [0x41]
      { running with vmode := .text8x12, retrace := true }))) (fun t =>
    !t.retrace && t.sink == [{ mode := .text8x12, cells := 0 :: 0x41 :: List.replicate 94 0 }]) = true := by decide +kernel

/-- R40: no reading past the cells, and so none at 0x10000, the first address past memory. -/
theorem test_render_sample_bounded :
    answers (step (onTurn (.renderSample (.text 4096)) { running with retrace := true })) (fun t => t.samples == []) &&
      answers (step (onTurn (.renderSample (.text 1999)) { running with retrace := true })) (fun t =>
        t.samples == [(.text 1999, 0)]) = true := by decide +kernel

/-! ## The canonical form of memory -/

/-- Writing what an unlisted byte reads as removes the entry. -/
theorem test_write_zero_unlists : blit [(5, 1), (6, 2)] 5 [0] = [(6, 2)] := by decide
theorem test_reset_memory_wf : Memory.wf Config.memSize State.reset.mem = true := by decide

/-! ## Witnesses: the hypotheses of each statement can be met, clause by clause, at the ends of the ranges -/

/-- An instruction's outcome is a next state. -/
abbrev completes (r : Result) : Prop := answers r (fun _ => true) = true

/-! ### Encoding -/

theorem witness_decodes : decode 0xFFFF3F02 = .ok (.mov both 15 0xFFFF) := by decide

/-- Unrecognized opcodes at the ends of both ranges, each as the word in `ir`. -/
theorem witness_unrecognized_ends :
    ((0x0D ≤ (wordOpc 0x0000000D).toNat ∧ (wordOpc 0x0000000D).toNat ≤ 0x0F) ∧
      (0x0D ≤ (wordOpc 0x0000000F).toNat ∧ (wordOpc 0x0000000F).toNat ≤ 0x0F) ∧ 0x16 ≤ (wordOpc 0x00000016).toNat ∧
      0x16 ≤ (wordOpc 0x000000FF).toNat) ∧ ({ running with ir := 0x00000016 } : State).ir = 0x00000016 := by decide
theorem witness_recognized_ends :
    (wordOpc 0x00000000).toNat ≤ 0x0C ∧ (wordOpc 0x0000000C).toNat ≤ 0x0C ∧
      (0x10 ≤ (wordOpc 0x00000010).toNat ∧ (wordOpc 0x00000010).toNat ≤ 0x15) ∧
      (0x10 ≤ (wordOpc 0x00000015).toNat ∧ (wordOpc 0x00000015).toNat ≤ 0x15) := by decide
/-- The opcode byte of every per-instruction statement, under other bits set. -/
theorem witness_opcodes :
    wordOpc 0xFFFFFF00 = 0x00 ∧ wordOpc 0xFFFFFF01 = 0x01 ∧ wordOpc 0xFFFFFF02 = 0x02 ∧ wordOpc 0xFFFFFF03 = 0x03 ∧
      wordOpc 0xFFFFFF04 = 0x04 ∧ wordOpc 0xFFFFFF05 = 0x05 ∧ wordOpc 0xFFFFFF06 = 0x06 ∧ wordOpc 0xFFFFFF07 = 0x07 ∧
      wordOpc 0xFFFFFF08 = 0x08 ∧ wordOpc 0xFFFFFF09 = 0x09 ∧ wordOpc 0xFFFFFF0A = 0x0A ∧ wordOpc 0xFFFFFF0B = 0x0B ∧
      wordOpc 0xFFFFFF0C = 0x0C ∧ wordOpc 0xFFFFFF10 = 0x10 ∧ wordOpc 0xFFFFFF11 = 0x11 ∧ wordOpc 0xFFFFFF12 = 0x12 ∧
      wordOpc 0xFFFFFF13 = 0x13 ∧ wordOpc 0xFFFFFF14 = 0x14 ∧ wordOpc 0xFFFFFF15 = 0x15 := by decide

/-! ### Operand forms of `mov`, `movi`, `add`, `sub`, `cmp` (n = 1 and n = 2) -/

theorem witness_form_immediate : RegForm regImm 0xFFFF 1 running 65535 ∧ RegForm regImm 0 2 running 0 := by
  unfold RegForm; decide +kernel
theorem witness_form_register : RegForm regReg 15 1 (withReg 15 0x12AA running) 0x12AA ∧ RegForm regReg 0 2 running 0 := by
  unfold RegForm; decide +kernel
theorem witness_form_byte : RegForm regMem 0xFFFF 1 (withBytes 0xFFFF [0x5A] running) 0x5A ∧ RegForm regMem 0 1 running 0 := by
  unfold RegForm; decide +kernel
theorem witness_form_word : RegForm regMem 0xFFFE 2 (withBytes 0xFFFE [0xCD, 0xAB] running) 0xABCD ∧
    RegForm regMem 0 2 running 0 := by unfold RegForm; decide +kernel
theorem witness_form_memory :
    MemForm memReg 0x00FE 1 ∧ MemForm memReg 0xFFFF 1 ∧ MemForm memReg 0x00FE 2 ∧ MemForm memReg 0xFFFE 2 := by
  unfold MemForm; decide
theorem witness_form_faults_instr : FormFaults neither 0x42 1 0x01 ∧ FormFaults both 0x2000 2 0x01 := by
  unfold FormFaults; decide
theorem witness_form_faults_reg : FormFaults regReg 16 1 0x04 ∧ FormFaults regReg 0xFFFF 2 0x04 := by
  unfold FormFaults; decide
theorem witness_form_faults_mem :
    FormFaults memReg 0x00FD 1 0x02 ∧ FormFaults memReg 0x00FD 2 0x02 ∧ FormFaults memReg 0xFFFF 2 0x02 ∧
      FormFaults regMem 0xFFFF 2 0x02 := by refine ⟨?_, ?_, ?_, ?_⟩ <;> (unfold FormFaults; decide)
/-- A whole and a torn platform; a source in memory and one in a register or the word (R52). -/
theorem witness_torn :
    ((torn running).platform.atomic16 = false ∧ running.platform.atomic16 = true) ∧
      (SourceInMemory regMem ∧ RegForm regMem 0x00FC 2 (torn (withBytes 0xFC [0x22, 0x11] running)) 0x1122) ∧
      (¬SourceInMemory regReg ∧ RegForm regReg 0 2 (torn running) 0) ∧
      CompareFlags false ((0x22 : Byte).toNat + 256 * ((withBytes 0xFD [0x11] running).readByte 0xFD).toNat) 0x1123 0x22 := by
  unfold SourceInMemory RegForm CompareFlags; decide +kernel
theorem witness_movmr : (15 : Word).toNat < 16 ∧ 15 < (16 : Word).toNat := by decide
/-- `cmp`, register destination: equal, greater and less, and the first two under `CMP_SWAP`. -/
theorem witness_cmp_register :
    (RegForm regImm 5 2 (withReg 1 5 running) 5 ∧ CompareFlags false 5 ((withReg 1 5 running).reg 1).toNat 0x05) ∧
      (RegForm regImm 5 2 (withReg 1 3 running) 5 ∧ CompareFlags false 5 ((withReg 1 3 running).reg 1).toNat 0x12) ∧
      (RegForm regImm 0 2 (withReg 1 0xFFFF running) 0 ∧ CompareFlags false 0 ((withReg 1 0xFFFF running).reg 1).toNat 0x22) ∧
      CompareFlags true 5 3 0x22 ∧ CompareFlags true 3 5 0x12 := by
  refine ⟨⟨?_, ?_⟩, ⟨?_, ?_⟩, ⟨?_, ?_⟩, ?_, ?_⟩ <;> (first | unfold RegForm | unfold CompareFlags) <;> decide +kernel
/-- `cmp`, memory destination (V-C10 at the last word). -/
theorem witness_cmp_memory : running.platform.atomic16 = true ∧
    MemForm memReg 0xFFFE 2 ∧ CompareFlags (withReg 1 1 running).platform.cmpSwap ((withReg 1 1 running).reg 1).toNat
      (((withBytes 0xFFFE [2] (withReg 1 1 running)).readByte 0xFFFE).toNat +
        256 * ((withBytes 0xFFFE [2] (withReg 1 1 running)).readByte 0xFFFF).toNat) 0x22 := by
  unfold MemForm CompareFlags; decide +kernel

/-! ### Branch targets and the condition register -/

theorem witness_targets :
    TargetIs 0x0100 running 0x0100 ∧ TargetIs 0xFFFF running 0xFFFF ∧ TargetIs 15 (withReg 15 0xFFFE running) 0xFFFE ∧
      TargetIs 0 running 0 := by unfold TargetIs; decide +kernel
theorem witness_bad_targets : (15 < (16 : Word).toNat ∧ (16 : Word).toNat < 0x100) ∧
    15 < (0xFF : Word).toNat ∧ (0xFF : Word).toNat < 0x100 := by decide
/-- A resolvable target with each value of the tested bit, for `breq` (bit 0) and `brneq` (bit 1). -/
theorem witness_branch_flags :
    (TargetIs 0x0200 { running with cr := 0x05 } 0x0200 ∧ ({ running with cr := 0x05 } : State).cr.getLsbD 0 = true ∧
      ({ running with cr := 0x05 } : State).cr.getLsbD 1 = false) ∧
      TargetIs 0x0200 { running with cr := 0x12 } 0x0200 ∧ ({ running with cr := 0x12 } : State).cr.getLsbD 0 = false ∧
      ({ running with cr := 0x12 } : State).cr.getLsbD 1 = true := by unfold TargetIs; decide +kernel

/-! ### Forwarding -/

theorem witness_forward :
    (Instr.isDisplay .diclr = true ∧ ({ running with q := List.replicate 31 0x11 } : State).q.length ≠ 32) ∧
      Instr.isDisplay (.disetxy 1 16) = true ∧ ({ running with q := List.replicate 32 0x11 } : State).q.length = 32 := by
  decide +kernel

/-! ### Frames and precise faults -/

theorem witness_register_frame :
    regMem.dm = false ∧ completes (exec (.mov regMem 1 0xFFFF) running) ∧ completes (exec (.movi regImm 1 5) running) ∧
      completes (exec (.add regReg 1 1) running) ∧ completes (exec (.sub regImm 1 1) running) ∧
      completes (exec (.stopc 15) running) ∧ completes (exec (.movmr 4 3) running) :=
  by decide +kernel
theorem witness_memory_frame :
    memReg.dr = false ∧ completes (exec (.mov memReg 1 0x00FE) running) ∧ completes (exec (.add memReg 1 0xFFFF) running) ∧
      completes (exec (.sub memReg 1 0x2000) running) ∧ completes (exec (.movi memReg 1 0xFFFE) running) :=
  by decide +kernel
theorem witness_no_destination_frame :
    completes (exec (.cmp memReg 1 0x2000) running) ∧ completes (exec (.jmp 0x0100) running) ∧
      completes (exec (.breq 15) running) ∧ completes (exec (.brneq 0xFFFF) running) ∧ completes (exec .halt running) ∧
      completes (exec .nop running) ∧ completes (exec .rst running) ∧ completes (exec .diwtrt running) :=
  by decide +kernel
theorem witness_precise :
    running.cpuExc = 0 ∧ answers (exec (.mov memReg 2 0x00FD) running) (fun t => t.cpuExc != 0) = true ∧
      answers (exec (.cmp regReg 1 16) running) (fun t => t.cpuExc != 0) = true := by decide +kernel

/-! ### The CPU cycle -/

/-- An instruction at `ROM_START`, and one at the last address that can be fetched from. -/
theorem witness_step_runs :
    (let s := atWord 0x01AA1202
     s.resetHold = false ∧ s.panic = false ∧ s.nextTurn = .cpu ∧ s.cpuAccess = none ∧ (s.pc + 4).toNat ≤ 65532 ∧ s.exc = 0 ∧
       decode (s.readDWord (s.pc + 4).toNat) = .ok (.mov regImm 2 0x01AA)) ∧
      (let s := withBytes 0xFFFC [1] { running with pc := 0xFFF8 }
       s.resetHold = false ∧ s.panic = false ∧ s.nextTurn = .cpu ∧ s.cpuAccess = none ∧ (s.pc + 4).toNat = 65532 ∧
         s.exc = 0 ∧ decode (s.readDWord (s.pc + 4).toNat) = .ok .nop) := by decide +kernel
/-- An unrecognized opcode at `ROM_START`. -/
theorem witness_step_unrecognized :
    let s := atWord 0x00000016
    s.resetHold = false ∧ s.panic = false ∧ s.nextTurn = .cpu ∧ s.cpuAccess = none ∧ (s.pc + 4).toNat ≤ 65532 ∧ s.exc = 0 ∧
      decode (s.readDWord (s.pc + 4).toNat) = .error (.unrecognizedOpcode 0x16) := by decide +kernel
/-- An instruction that stops between its two bytes, and a state in which one has. -/
theorem witness_step_torn :
    answers (step (torn (atWord 0x00FC9103))) (fun t => t.cpuAccess != none) = true ∧
      (let s : State := { torn running with cpuAccess := some (.load 0x00FC 0x22 (.register 1)) }
       s.resetHold = false ∧ s.panic = false ∧ s.nextTurn = .cpu ∧ s.cpuAccess = some (.load 0x00FC 0x22 (.register 1))) := by
  decide +kernel
theorem witness_stray :
    (let s : State := { running with pc := 0xFFF9 }
     s.resetHold = false ∧ s.panic = false ∧ s.nextTurn = .cpu ∧ s.cpuAccess = none ∧ (s.pc + 4).toNat = 65533) ∧
      (let s : State := { running with pc := 0xFFFFFFFB }
       s.nextTurn = .cpu ∧ 65532 < (s.pc + 4).toNat) := by decide +kernel
theorem witness_pending :
    let s : State := { atWord 0x00771103 with exc := 0x10 }
    s.resetHold = false ∧ s.panic = false ∧ s.nextTurn = .cpu ∧ s.cpuAccess = none ∧ (s.pc + 4).toNat ≤ 65532 ∧ s.exc ≠ 0 := by
  decide +kernel
/-- For each agent a stopped state with its turn, behind the barrier or after `panic`. -/
theorem witness_stopped :
    (∀ t ∈ [Turn.cpu, .vdc, .renderStart, .ioin none, .ioout true], (onTurn t State.reset).resetHold = true ∧
        (onTurn t State.reset).nextTurn = t) ∧
      ∀ t ∈ [Turn.cpu, .vdc, .renderStart, .ioin (some 1), .ioout false], (onTurn t { running with panic := true }).panic = true ∧
        (onTurn t { running with panic := true }).nextTurn = t := by decide +kernel
/-! ### The VDC, RENDER, the I/O agents -/

theorem witness_vdc_empty : running.resetHold = false ∧ running.panic = false ∧ (onTurn .vdc running).nextTurn = .vdc ∧
    (onTurn .vdc running).q = [] := by decide
theorem witness_vdc_pop :
    let s := vdcAt .off 0 0 0x00000012
    s.nextTurn = .vdc ∧ s.q = 0x00000012 :: [] ∧ decode 0x00000012 = .ok .diwtrt ∧
      ¬(Instr.diwtrt = .diwtrt ∧ s.vmode ≠ .off ∧ s.retrace = true) := by decide +kernel
theorem witness_vdc_held :
    let s : State := { vdcAt .pixel 0 0 0x00000012 with retrace := true }
    s.resetHold = false ∧ s.panic = false ∧ s.nextTurn = .vdc ∧ s.q = 0x00000012 :: [] ∧
      decode 0x00000012 = .ok .diwtrt ∧ (Instr.diwtrt = .diwtrt ∧ s.vmode ≠ .off ∧ s.retrace = true) := by decide +kernel
/-- `diwtrt` at the head with the adapter disabled, and enabled with no walk in flight. -/
theorem witness_diwtrt :
    (let s := vdcAt .off 0 0 0xFFFFFF12
     s.resetHold = false ∧ s.panic = false ∧ s.nextTurn = .vdc ∧ s.q = 0xFFFFFF12 :: [] ∧ wordOpc 0xFFFFFF12 = 0x12 ∧
       s.vmode = .off) ∧
      (let s := vdcAt .text8x12 0 0 0xFFFFFF12
       s.nextTurn = .vdc ∧ s.q = 0xFFFFFF12 :: [] ∧ s.vmode ≠ .off ∧ s.retrace = false) := by decide +kernel
theorem witness_modes : TextMode .text8x12 8 12 ∧ TextMode .text80x25 80 25 ∧ ModeSize .pixel 640 480 := by
  unfold ModeSize TextMode; decide
theorem witness_dimd_valid :
    (VdcByte false false 0x0101 running 1 ∧ ModeCode running.platform.hasPixel 1 .text8x12) ∧
      (VdcByte true false 5 (withReg 5 0x0302 running) 2 ∧ ModeCode running.platform.hasPixel 2 .text80x25) ∧
      (VdcByte false true 0x2000 (withBytes 0x2000 [3] running) 3 ∧ ModeCode running.platform.hasPixel 3 .pixel) := by
  unfold VdcByte ModeCode; decide +kernel
theorem witness_dimd_invalid :
    (VdcByte false false 0 running 0 ∧ ∀ v, ¬ModeCode true 0 v) ∧ (VdcByte false false 4 running 4 ∧ ∀ v, ¬ModeCode true 4 v) ∧
      ∀ v, ¬ModeCode false 3 v := by
  refine ⟨⟨by unfold VdcByte; decide +kernel, ?_⟩, ⟨by unfold VdcByte; decide +kernel, ?_⟩, ?_⟩ <;> intro v <;> simp [ModeCode]
theorem witness_disetxy :
    (ModeSize (vdcAt .text80x25 0 0 0).vmode 80 25 ∧ (79 : Word).toNat < 80 ∧ (24 : Word).toNat < 25) ∧
      80 ≤ (80 : Word).toNat ∧ 25 ≤ (25 : Word).toNat ∧ 15 < (16 : Word).toNat ∧ running.vmode = .off := by
  unfold ModeSize TextMode; decide
theorem witness_dichar :
    (let s := vdcAt .text80x25 79 24 0x00410014
     VdcByte false false 0x41 s 0x41 ∧ TextMode s.vmode 80 25 ∧ s.cx.toNat < 80 ∧ s.cy.toNat < 25) ∧
      (let s := vdcAt .text8x12 8 0 0x00410014
       TextMode s.vmode 8 12 ∧ (8 ≤ s.cx.toNat ∨ 12 ≤ s.cy.toNat)) ∧ (vdcAt .pixel 0 0 0).vmode = .pixel ∧
      running.vmode = .off ∧ 15 < (16 : Word).toNat := by unfold VdcByte TextMode; decide +kernel
theorem witness_diputpixel :
    (let s := vdcAt .pixel 639 479 0x00070015
     VdcByte false false 7 s 7 ∧ s.vmode = .pixel ∧ s.cx.toNat < 640 ∧ s.cy.toNat < 480) ∧
      (vdcAt .text8x12 0 0 0).vmode ≠ .pixel ∧ 640 ≤ (vdcAt .pixel 640 0 0).cx.toNat ∧ 480 ≤ (vdcAt .pixel 0 480 0).cy.toNat ∧
      15 < (16 : Word).toNat := by unfold VdcByte; decide +kernel
theorem witness_vdc_step : (vdcAt .off 0 0 0x00010010).nextTurn = .vdc ∧ completes (step (vdcAt .off 0 0 0x00010010)) := by
  decide +kernel
theorem witness_render :
    (let s := onTurn .renderStart { running with vmode := .text8x12 }
     s.resetHold = false ∧ s.panic = false ∧ s.nextTurn = .renderStart ∧ s.vmode ≠ .off ∧ s.retrace = false) ∧
      (let s := onTurn .renderFinish { running with vmode := .text80x25, retrace := true }
       s.nextTurn = .renderFinish ∧ s.retrace = true ∧ 1999 < 80 * 25 ∧ ∀ p ∈ s.samples, p.1 ≠ FbCell.text 1999) ∧
      (let s := onTurn .renderFinish { running with vmode := .pixel, retrace := true, panic := true,
                                                    samples := [(.pixel 1, 9), (.pixel 0, 8), (.pixel 0, 7)] }
       s.nextTurn = .renderFinish ∧ s.retrace = true ∧ s.vmode = .pixel ∧
         s.samples = [(.pixel 1, 9)] ++ (.pixel 0, 8) :: [(.pixel 0, 7)] ∧
         ∀ p ∈ [(FbCell.pixel 1, (9 : Byte))], p.1 ≠ FbCell.pixel 0) := by decide +kernel
/-- A reading of the first cell of each kind, with a walk in flight and without one. -/
theorem witness_render_sample :
    (let s := onTurn (.renderSample (.text 0)) { running with vmode := .text8x12, retrace := true }
     s.nextTurn = .renderSample (.text 0) ∧ s.retrace = true) ∧
      (CellOfSomeMode (.text 0) ∧ CellOfSomeMode (.text 1999) ∧ CellOfSomeMode (.pixel 307199)) ∧
      (¬CellOfSomeMode (.text 2000) ∧ ¬CellOfSomeMode (.pixel 307200)) ∧
      (onTurn (.renderSample (.pixel 0)) running).nextTurn = .renderSample (.pixel 0) ∧
      (onTurn (.renderSample (.pixel 0)) running).retrace = false := by
  simp only [← FbCell.inFrame_iff]; decide
theorem witness_io :
    ((onTurn (.ioin (some 65536)) running).nextTurn = .ioin (some 65536) ∧ (onTurn (.ioin none) running).nextTurn = .ioin none ∧
      (onTurn (.ioout true) running).nextTurn = .ioout true ∧ (onTurn (.ioout false) running).nextTurn = .ioout false) ∧
      running.resetHold = false ∧ running.panic = false ∧ running.ioinHigh = none ∧ running.iooutLow = none := by decide
/-- The second bytes of IOIN and IOOUT, after `panic` too. -/
theorem witness_io_finish :
    (let s := torn (onTurn .ioinFinish { running with panic := true, ioinHigh := some 0x12 })
     s.nextTurn = .ioinFinish ∧ s.ioinHigh = some 0x12) ∧
      (let s := torn (onTurn (.iooutFinish true) { running with panic := true, iooutLow := some 0x34 })
       s.nextTurn = .iooutFinish true ∧ s.iooutLow = some 0x34) ∧
      (onTurn (.iooutFinish false) running).nextTurn = .iooutFinish false := by decide

/-! ### Reset, the HOST -/

/-- A platform with a ROM of one `nop` and a little boot text. -/
def smallPlatform : Platform := { Platform.default with romImage := [1, 0, 0, 0], bootText := [0x48, 0x69] }

theorem witness_platform_ok : smallPlatform.ok = true := by decide +kernel
theorem witness_release : State.reset.nextTurn = .release := rfl
theorem witness_release_first_fetch :
    (let s : State := { running with platform := smallPlatform, sched := [.release, .cpu] }
     s.platform.ok = true ∧ s.resetProcedure.nextTurn = .release ∧ s.resetProcedure.sched.tail.head? = some .cpu ∧
       answers (Host.Core.run Sys2Proof.core 2 s.resetProcedure) (fun u => u.ir == 1) = true) ∧
      (let s : State := { running with platform := { smallPlatform with romImage := [0x0B] } }
       s.platform.ok = true ∧ s.resetProcedure.nextTurn = .release ∧ s.resetProcedure.sched.tail = [] ∧
         answers (Host.Core.run Sys2Proof.core 2 s.resetProcedure) (fun u => u.ir == 0x0B && u.exc == 0x08) = true) := by
  decide +kernel
theorem witness_end_of_run :
    (let s : State := { running with panic := true }
     s.nextTurn = .endOfRun ∧ s.panic = true ∧ s.resetHold = false ∧ s.retrace = false ∧ s.ioinHigh = none ∧
       s.iooutLow = none ∧ s.exc = 0) ∧
      (let s : State := { running with panic := true, exc := 0x48 }
       s.nextTurn = .endOfRun ∧ s.exc.getLsbD 6 = true) ∧
      (let s : State := { running with panic := true, exc := 0x3F }
       s.nextTurn = .endOfRun ∧ s.exc ≠ 0 ∧ s.exc.getLsbD 6 = false ∧ s.platform.ok = true) := by decide +kernel
theorem witness_shutdown : running.resetHold = false ∧ (onTurn .shutdown running).nextTurn = .shutdown := ⟨rfl, rfl⟩
/-- A wrong magic with an empty body, and the first size past the capacity. -/
theorem witness_loader_rejects :
    let r : List Byte := [0, 0, 0, 0, 0, 0, 0, 0]
    (r.length = 8 ∧ running.panic = false ∧ running.load = none ∧
      (onTurn (.loadOpen ((1 : Byte) :: 0 :: 0 :: 0 :: r ++ 0 :: 0 :: 0 :: 0 :: [])) running).nextTurn =
        .loadOpen (1 :: 0 :: 0 :: 0 :: r ++ 0 :: 0 :: 0 :: 0 :: []) ∧ wordOfBytes 1 0 0 0 ≠ running.platform.prgMagic) ∧
      (wordOfBytes 0x01 0xC0 0 0).toNat = 49153 := by decide +kernel
/-- A two-byte image copied from its second byte to its first. -/
theorem witness_loader_copies :
    let r : List Byte := [0, 0, 0, 0, 0, 0, 0, 0]
    let body : List Byte := [7, 9]
    let order : List Nat := [1, 0]
    let image : List Byte := (0 : Byte) :: 0 :: 0 :: 0 :: r ++ 2 :: 0 :: 0 :: 0 :: body
    let s : State := { running with sched := Turn.loadOpen image :: (order.map Turn.loadCopy ++ .loadDone :: []) }
    r.length = 8 ∧ s.resetHold = false ∧ s.panic = false ∧ s.load = none ∧ wordOfBytes 0 0 0 0 = s.platform.prgMagic ∧
      (wordOfBytes 2 0 0 0).toNat = body.length ∧ body.length ≤ 49152 ∧ order.length = body.length ∧
      (∀ (j : Nat) (hj : j < order.length), order[j] + j < body.length) ∧
      answers (Host.Core.run Sys2Proof.core (body.length + 2) s) (fun t => t.mem == [(1, 1), (0x4000, 7), (0x4001, 9)]) =
        true := by decide +kernel

/-! ### Whole-machine rules -/

/-- The invariant of a released machine with nothing listed in memory and at most one, displayable, word queued. -/
theorem inv_of_small {s : State} (h : s.mem = []) (hp : s.pix = []) (hc : crLegal s.cr = true)
    (hq : s.q = [] ∨ s.q = [0x00000012]) (he : s.exc = 0 ∧ s.cpuExc = 0 ∧ s.vdcExc = 0 ∧ s.ioExc = 0 ∧ s.extExc = 0)
    (hv : s.vmode = .off) (hr : s.retrace = false) (hx : s.cx = 0 ∧ s.cy = 0) (hl : s.load = none)
    (hh : s.resetHold = false) (ha : s.cpuAccess = none) (hio : s.ioinHigh = none ∧ s.iooutLow = none) : s.Inv := by
  have hw : isDisplayWord 0x00000012 = true := by decide
  have hn : Memory.wf Config.memSize [] = true ∧ Memory.wf Config.pixSize [] = true := ⟨rfl, rfl⟩
  have hlen : s.q.length ≤ Config.qCap := by rcases hq with hq | hq <;> simp [hq, Config.qCap]
  have hd : ∀ w ∈ s.q, isDisplayWord w = true := by
    rcases hq with hq | hq
    · simp [hq]
    · intro w hm
      rw [hq, List.mem_singleton] at hm
      rw [hm]
      exact hw
  exact ⟨h ▸ hn.1, hp ▸ hn.2, hc, hlen, hd, by simp [he], by simp [he], by simp [he], by simp [he], by simp [he], by simp [he],
    by simp [hv], by simp [hr], by simp [hx], by simp [hl], by simp [hh], by simp [ha], by simp [hio]⟩

theorem witness_invariant_step : running.Inv ∧ completes (step running) :=
  ⟨inv_of_small rfl rfl rfl (.inl rfl) ⟨rfl, rfl, rfl, rfl, rfl⟩ rfl rfl ⟨rfl, rfl⟩ rfl rfl rfl ⟨rfl, rfl⟩, by decide +kernel⟩
theorem witness_any_step : completes (step State.reset) ∧ completes (step running) := by decide +kernel
theorem witness_other_turn : (onTurn .shutdown running).nextTurn ≠ .cpu ∧ completes (step (onTurn .shutdown running)) := by
  decide +kernel
/-- The CPU's turn in a state that meets the invariant. -/
theorem witness_cpu_step : running.Inv ∧ running.nextTurn = .cpu ∧ completes (step running) :=
  ⟨witness_invariant_step.1, rfl, witness_invariant_step.2⟩
/-- A step that does change a byte of the read-only zone. -/
theorem witness_read_only_zone :
    (onTurn (.ioin (some 5)) running).Inv ∧ (0xFC : Nat) < 0x00FE ∧ answers (step (onTurn (.ioin (some 5)) running))
      (fun t => t.readByte 0xFC != (onTurn (.ioin (some 5)) running).readByte 0xFC) = true :=
  ⟨inv_of_small rfl rfl rfl (.inl rfl) ⟨rfl, rfl, rfl, rfl, rfl⟩ rfl rfl ⟨rfl, rfl⟩ rfl rfl rfl ⟨rfl, rfl⟩, by decide,
    by decide +kernel⟩
theorem witness_drain :
    let s := vdcAt .off 0 0 0x00000012
    s.Inv ∧ s.resetHold = false ∧ s.panic = false ∧ s.retrace = false ∧ s.sched = List.replicate s.q.length .vdc ++ [] :=
  ⟨inv_of_small rfl rfl rfl (.inr rfl) ⟨rfl, rfl, rfl, rfl, rfl⟩ rfl rfl ⟨rfl, rfl⟩ rfl rfl rfl ⟨rfl, rfl⟩, rfl, rfl, rfl, rfl⟩
theorem witness_control_free : ∀ d c, running.nextTurn ≠ .control d c := by intro d c h; cases h
theorem witness_program_fault :
    (let s : State := { running with panic := true, exc := 0x08 }
     s.sched = [] ∧ s.panic = true ∧ s.resetHold = false ∧ s.retrace = false ∧ s.ioinHigh = none ∧ s.iooutLow = none ∧
       s.platform.ok = true ∧ s.exc = 0x08) ∧
      ({ running with panic := true, exc := 0x48 } : State).exc.getLsbD 6 = true := by decide +kernel

end Sys2Proof.Tests
end

/-! PROOFS. What the moves and the ALU instructions leave unchanged, that CPU faults are precise, and that no agent's turn
changes the platform. -/

namespace Sys2Proof.Machine

/-- What holds of the next state that a result is known to have. -/
theorem of_next {r : Result} {P : State → Prop} {t : State} (h : ∃ u, r = .next u ∧ P u) (hr : r = .next t) : P t := by
  obtain ⟨u, hu, hP⟩ := h
  rw [hu] at hr
  injection hr with hr
  exact hr ▸ hP

/-! ## rst -/

theorem exec_rst (s : State) : exec .rst s = .next (s.raise .prg) := rfl

/-- Settles O20: the opcode byte alone chooses `rst`, and its effect is one raise. -/
theorem rstRaisesProgramFault : Obligations.RstRaisesProgramFault :=
  ⟨fun _ ho => decode_of_opcode (i := .rst) ho, exec_rst⟩

/-! ## Precise faults (spec/60_exceptions.md R207, R209) -/

/-- `cpu_exc` changes only by one raise, which is then the whole effect, but for `CC_UNDEF` in `cmp`. -/
theorem CpuEffect.cpuExc_cases {i : Instr} {s t : State} (h : CpuEffect i s t) :
    t.cpuExc = s.cpuExc ∨
      ∃ f : ExcKind, t = s.raise f ∨ ((∃ m rd opnd, i = .cmp m rd opnd) ∧ t = (s.setCr Config.ccUndef).raise f) := by
  cases h with
  | raise f => exact .inr ⟨f, .inl rfl⟩
  | flagsRaise hi f => exact .inr ⟨f, .inr ⟨hi, rfl⟩⟩
  | _ => exact .inl rfl

/-- Settles O25: an effect that leaves `cpu_exc` as it was leaves it 0, so the effect is a raise. -/
theorem cpuFaultsArePrecise : Obligations.CpuFaultsArePrecise := by
  intro i s t hs he ht
  rcases (exec_inv he).cpuExc_cases with h | h
  · exact absurd (h.trans hs) ht
  · exact h

/-! ## The frame of the moves and the ALU instructions -/

/-- The CPU's state that no move, `add` or `sub` writes. -/
structure State.SameControl (s t : State) : Prop where
  pc : t.pc = s.pc
  cr : t.cr = s.cr
  panic : t.panic = s.panic
  q : t.q = s.q

section
variable {w : Width} {m : ModeFlags} {rd : RegId} {opnd : Word} {s t : State}

theorem MoveEffect.sameControl (h : MoveEffect w m rd opnd s t) : s.SameControl t := by
  cases h <;> exact ⟨rfl, rfl, rfl, rfl⟩

theorem MoveEffect.cpuAccess (h : MoveEffect w m rd opnd s t) : t.cpuAccess = s.cpuAccess := by
  cases h <;> rfl

theorem MoviEffect.sameControl (h : MoviEffect m rd opnd s t) : s.SameControl t := by
  cases h with
  | whole h => exact h.sameControl
  | _ => exact ⟨rfl, rfl, rfl, rfl⟩

theorem MoviEffect.cpuAccess (h : MoviEffect m rd opnd s t) :
    s.platform.atomic16 = false ∨ t.cpuAccess = s.cpuAccess := by
  cases h with
  | whole h => exact .inr h.cpuAccess
  | loadHalf _ _ _ hp _ => exact .inl hp
  | storeHalf _ _ _ _ hp _ _ => exact .inl hp

end

/-! ### A register destination -/

/-- All that an instruction whose one destination is register `rd` can do: write it, raise a fault, or as `movi` with
`ATOMIC16` false read the first byte of its source (spec/20_memory.md R52). -/
inductive RegisterEffect (i : Instr) (rd : RegId) (s : State) : State → Prop where
  | write (v : Word) : RegisterEffect i rd s (s.setReg rd v)
  | raise (f : ExcKind) : RegisterEffect i rd s (s.raise f)
  | loadHalf (a : HalfAccess) (hi : ∃ m opnd, i = .movi m rd opnd) (hp : s.platform.atomic16 = false) :
      RegisterEffect i rd s { s with cpuAccess := some a }

theorem MoveEffect.register {w : Width} {m : ModeFlags} {rd : RegId} {opnd : Word} {s t : State} (i : Instr)
    (h : MoveEffect w m rd opnd s t) (hm : m.dm = false) : RegisterEffect i rd s t := by
  cases h with
  | reg v _ _ => exact .write v
  | mem _ _ hm' _ _ => simp [hm] at hm'
  | raise f => exact .raise f

theorem MoviEffect.register {m : ModeFlags} {rd : RegId} {opnd : Word} {s t : State}
    (h : MoviEffect m rd opnd s t) (hm : m.dm = false) : RegisterEffect (.movi m rd opnd) rd s t := by
  cases h with
  | whole h => exact h.register _ hm
  | loadHalf _ _ _ hp _ => exact .loadHalf _ ⟨m, opnd, rfl⟩ hp
  | storeHalf _ _ _ hm' _ _ _ => simp [hm] at hm'

theorem exec_stopc (rd : RegId) (s : State) : exec (.stopc rd) s = .next (s.setReg rd (s.pc.extractLsb' 0 16)) :=
  rfl

theorem execMovmr_register (rd : RegId) (rs : Word) (s : State) :
    ∃ t, execMovmr rd rs s = .next t ∧ RegisterEffect (.movmr rd rs) rd s t := by
  unfold execMovmr
  split
  · exact ⟨_, rfl, .write _⟩
  · exact ⟨_, rfl, .raise _⟩

section
variable {i : Instr} {rd : RegId} {s t : State}

theorem RegisterEffect.reg_ne (h : RegisterEffect i rd s t) (r : RegId) (hr : r ≠ rd) : t.reg r = s.reg r := by
  cases h with
  | write v => exact s.reg_setReg_ne v hr
  | _ => rfl

theorem RegisterEffect.sameBytes (h : RegisterEffect i rd s t) : s.sameBytes t := by
  cases h <;> exact fun _ => rfl

theorem RegisterEffect.sameControl (h : RegisterEffect i rd s t) : s.SameControl t := by
  cases h <;> exact ⟨rfl, rfl, rfl, rfl⟩

theorem RegisterEffect.cpuAccess (h : RegisterEffect i rd s t) :
    ((∃ m opnd, i = .movi m rd opnd) ∧ s.platform.atomic16 = false) ∨ t.cpuAccess = s.cpuAccess := by
  cases h with
  | loadHalf _ hi hp => exact .inl ⟨hi, hp⟩
  | _ => exact .inr rfl

end

/-- Settles O22: each of the six instructions has a `RegisterEffect`, and that effect has the frame. -/
theorem registerDestinationFrame : Obligations.RegisterDestinationFrame := by
  intro i rd s t hi he
  have effect : RegisterEffect i rd s t := by
    rcases hi with ⟨m, opnd, hm, rfl | rfl | rfl | rfl⟩ | rfl | ⟨rs, rfl⟩
    · exact (of_next (execMov_effect m rd opnd s) he).register _ hm
    · exact (of_next (execMovi_effect m rd opnd s) he).register hm
    · exact (of_next (execAdd_effect m rd opnd s) he).register _ hm
    · exact (of_next (execSub_effect m rd opnd s) he).register _ hm
    · exact of_next ⟨_, exec_stopc rd s, .write _⟩ he
    · exact of_next (execMovmr_register rd rs s) he
  have control := effect.sameControl
  exact ⟨effect.reg_ne, effect.sameBytes, control.pc, control.cr, control.panic, control.q, (exec_inv he).sameBeyondCpu,
    effect.cpuAccess⟩

/-! ### A memory destination -/

section
variable {w : Width} {m : ModeFlags} {rd : RegId} {opnd : Word} {s t : State}

theorem MoveEffect.reg_of_memory (h : MoveEffect w m rd opnd s t) (hr : m.dr = false) (r : RegId) :
    t.reg r = s.reg r := by
  cases h with
  | reg _ hr' _ => simp [hr] at hr'
  | _ => rfl

theorem MoveEffect.sameBytesOutside (h : MoveEffect w m rd opnd s t) : s.sameBytesOutside t opnd.toNat w.size := by
  intro b hb
  cases h with
  | mem v _ _ _ _ => exact s.readByte_memWrite_outside hb
  | _ => rfl

theorem MoviEffect.reg_of_memory (h : MoviEffect m rd opnd s t) (hr : m.dr = false) (r : RegId) :
    t.reg r = s.reg r := by
  cases h with
  | whole h => exact h.reg_of_memory hr r
  | _ => rfl

/-- The half-done store has written the first of the two bytes only. -/
theorem MoviEffect.sameBytesOutside (h : MoviEffect m rd opnd s t) : s.sameBytesOutside t opnd.toNat 2 := by
  cases h with
  | whole h => exact h.sameBytesOutside
  | loadHalf => exact fun _ _ => rfl
  | storeHalf low _ _ _ _ _ _ =>
    intro b hb
    exact s.readByte_writeBytes_outside (vs := [low]) (hb.imp_right Nat.le_of_succ_le)

end

/-- Settles O23: `mov`, `add` and `sub` have a `MoveEffect` of one byte, `movi` a `MoviEffect`, and these have the frame. -/
theorem memoryDestinationFrame : Obligations.MemoryDestinationFrame := by
  intro i m rd opnd s t hr he
  have beyond := (exec_inv he).sameBeyondCpu
  constructor
  · intro hi
    have effect : MoveEffect .byte m rd opnd s t := by
      rcases hi with rfl | rfl | rfl
      · exact of_next (execMov_effect m rd opnd s) he
      · exact of_next (execAdd_effect m rd opnd s) he
      · exact of_next (execSub_effect m rd opnd s) he
    have control := effect.sameControl
    exact ⟨effect.reg_of_memory hr, effect.sameBytesOutside, control.pc, control.cr, control.panic, control.q, beyond,
      effect.cpuAccess⟩
  · rintro rfl
    have effect : MoviEffect m rd opnd s t := of_next (execMovi_effect m rd opnd s) he
    have control := effect.sameControl
    exact ⟨effect.reg_of_memory hr, effect.sameBytesOutside, control.pc, control.cr, control.panic, control.q, beyond,
      effect.cpuAccess⟩

/-! ## The platform (spec/00_scope.md R3) -/

/-- A turn's answer, where it is a next state, is on the platform of `s`. -/
def KeepsPlatform (s : State) (r : Result) : Prop := ∀ t, r = .next t → t.platform = s.platform

namespace KeepsPlatform
variable {s : State}

theorem next {t : State} (h : t.platform = s.platform) : KeepsPlatform s (.next t) := by
  intro u hu
  injection hu with hu
  exact hu ▸ h

theorem fault (f : Fault) : KeepsPlatform s (.fault f) := by intro _ h; cases h

theorem refused (r : Refusal) : KeepsPlatform s (.refused r) := by intro _ h; cases h

theorem ite {c : Prop} [Decidable c] {a b : Result} (ha : KeepsPlatform s a) (hb : KeepsPlatform s b) :
    KeepsPlatform s (if c then a else b) := by
  split
  · exact ha
  · exact hb

end KeepsPlatform

/-! ### The operations that an agent's turn is made of -/

theorem State.clear_platform (s : State) : s.clear.platform = s.platform := by
  unfold State.clear
  split <;> rfl

theorem State.endCycle_platform (s : State) : s.endCycle.platform = s.platform := by
  unfold State.endCycle
  split <;> rfl

theorem State.finishAccess_platform {s : State} {a : HalfAccess} (h : s.cpuAccess = some a) :
    (s.finishAccess a).platform = s.platform := (finishAccess_effect h).sameBeyondCpu.platform

theorem State.storeInput_platform (s : State) (v : Word) : (s.storeInput v).platform = s.platform := by
  rcases s.storeInput_cases v with ⟨-, h⟩ | ⟨-, h⟩ <;> simp [h]

theorem State.sampleOutput_platform (s : State) : s.sampleOutput.platform = s.platform := by
  rcases s.sampleOutput_cases with ⟨-, h⟩ | ⟨-, h⟩ <;> simp [h]

theorem State.beginLoad_platform (s : State) (body : Option (List Byte)) : (s.beginLoad body).platform = s.platform := by
  cases body <;> rfl

theorem CycleEffect.platform {s t : State} (h : CycleEffect s t) : t.platform = s.platform := by
  cases h with
  | finished a ha => exact State.finishAccess_platform ha
  | ran _ _ _ i _ u hu => exact u.endCycle_platform.trans (exec_inv hu).sameBeyondCpu.platform
  | _ => rfl

theorem VdcEffect.platform {s t : State} (h : VdcEffect s t) : t.platform = s.platform := by
  cases h with
  | mode v _ _ => exact State.clear_platform _
  | clear _ => exact s.clear_platform
  | _ => rfl

/-! ### The agents' turns -/

theorem cpuTurn_keepsPlatform (s : State) : KeepsPlatform s (cpuTurn s) := by
  cases hr : s.running with
  | true =>
    obtain ⟨t, ht, effect⟩ := cpuTurn_effect hr
    exact ht ▸ .next effect.platform
  | false => exact cpuTurn_stopped hr ▸ .next rfl

/-- A word that is no display word stops the model instead (assumption 11). -/
theorem vdcExec_foreign {i : Instr} (hi : i.isDisplay = false) (s : State) : vdcExec i s = .fault .foreignQueueWord := by
  cases i with
  | dimd | diclr | diwtrt | disetxy | dichar | diputpixel => cases hi
  | _ => rfl

theorem vdcExec_keepsPlatform (i : Instr) (s : State) : KeepsPlatform s (vdcExec i s) := by
  cases hi : i.isDisplay with
  | true =>
    obtain ⟨t, ht, effect⟩ := vdcExec_effect hi s
    exact ht ▸ .next effect.platform
  | false => exact vdcExec_foreign hi s ▸ .fault _

theorem vdcTurn_keepsPlatform (s : State) : KeepsPlatform s (vdcTurn s) := by
  cases hr : s.running with
  | true =>
    rcases vdcTurn_cases hr with ⟨h, -⟩ | ⟨w, rest, i, -, -, -, h⟩ | ⟨w, rest, e, -, -, h⟩
    · exact h ▸ .next rfl
    · exact h ▸ vdcExec_keepsPlatform i { s with q := rest }
    · exact h ▸ .fault _
  | false => exact vdcTurn_stopped hr ▸ .next rfl

theorem ioinTurn_keepsPlatform (value : Option Nat) (s : State) : KeepsPlatform s (ioinTurn value s) := by
  cases value with
  | some n => exact .ite (.next (s.storeInput_platform _)) (.next rfl)
  | none => exact .ite (.next rfl) (.next rfl)

theorem ioinFinishTurn_keepsPlatform (s : State) : KeepsPlatform s (ioinFinishTurn s) := by
  unfold ioinFinishTurn
  split <;> exact .next rfl

theorem iooutFinishTurn_keepsPlatform (ok : Bool) (s : State) : KeepsPlatform s (iooutFinishTurn ok s) := by
  unfold iooutFinishTurn
  split
  · exact .ite (.next rfl) (.next rfl)
  · exact .next rfl

theorem loadCopyTurn_keepsPlatform (k : Nat) (s : State) : KeepsPlatform s (loadCopyTurn k s) := by
  unfold loadCopyTurn
  refine .ite ?_ (.next rfl)
  split
  · exact .next rfl
  · split <;> exact .next rfl

theorem runTurn_keepsPlatform (turn : Turn) (s : State) : KeepsPlatform s (runTurn turn s) := by
  cases turn with
  | cpu => exact cpuTurn_keepsPlatform s
  | vdc => exact vdcTurn_keepsPlatform s
  | renderStart | renderSample c | renderFinish => exact .ite (.next rfl) (.next rfl)
  | ioin v => exact ioinTurn_keepsPlatform v s
  | ioinFinish => exact ioinFinishTurn_keepsPlatform s
  | ioout ok => exact .ite (.ite (.next s.sampleOutput_platform) (.next rfl)) (.next rfl)
  | iooutFinish ok => exact iooutFinishTurn_keepsPlatform ok s
  | release | control d c => exact .next rfl
  | endOfRun => exact .ite (.ite (.fault _) (.ite (.next s.resetProcedure_platform) (.refused _))) (.next rfl)
  | loadOpen image | loadDirect image => exact .ite (.next (s.beginLoad_platform _)) (.next rfl)
  | loadCopy k => exact loadCopyTurn_keepsPlatform k s
  | shutdown | loadDone | bootStatus v => exact .ite (.next rfl) (.next rfl)

/-- Settles O59: a step is one turn, and every turn keeps the platform, the soft reboot's included. -/
theorem platformNeverChanges : Obligations.PlatformNeverChanges := by
  intro s t h
  exact runTurn_keepsPlatform s.nextTurn s.dropTurn t h

end Sys2Proof.Machine

/-! PROOFS. What one turn of any agent can do, said once (`TurnEffect`), and what follows from it for every step: the
invariant of the machine, which faults stay, who writes the CPU's state and the queue. Then stopped agents, the I/O agents,
the frame of the instructions with no destination, reset and the first fetch, and the control flags that no turn reads. -/

namespace Sys2Proof.Machine

/-! ## The answers of a turn -/

/-- `P` holds of the next state that a result answers, where it answers one. -/
def Answers (P : State → Prop) (r : Result) : Prop := ∀ t, r = .next t → P t

namespace Answers
variable {P : State → Prop}

theorem next {t : State} (h : P t) : Answers P (.next t) := by
  intro u hu
  injection hu with hu
  exact hu ▸ h

theorem fault (f : Fault) : Answers P (.fault f) := by intro _ h; cases h

theorem refused (r : Refusal) : Answers P (.refused r) := by intro _ h; cases h

theorem ite {c : Prop} [Decidable c] {a b : Result} (ha : c → Answers P a) (hb : ¬c → Answers P b) :
    Answers P (if c then a else b) := by
  split
  · exact ha ‹c›
  · exact hb ‹¬c›

end Answers

/-- All that a turn can do to the state it finds, with what its agent was enabled by. -/
inductive TurnEffect (s : State) : Turn → State → Prop where
  /-- The agent is not enabled (assumption 2), or the VDC has nothing to execute (46_vdc.md R163). -/
  | idle (turn : Turn) : TurnEffect s turn s
  | cpu {t : State} (hr : s.running = true) (h : CycleEffect s t) : TurnEffect s .cpu t
  | vdc {t : State} (hr : s.running = true) (w : DWord) (rest : List DWord) (hq : s.q = w :: rest)
      (h : VdcEffect { s with q := rest } t) : TurnEffect s .vdc t
  | renderStart (hr : s.running = true) (hv : s.vmode ≠ .off) :
      TurnEffect s .renderStart { s with retrace := true, samples := [] }
  | renderSample (c : FbCell) : TurnEffect s (.renderSample c) { s with samples := (c, s.cellNow c) :: s.samples }
  | renderFinish (f : Frame) :
      TurnEffect s .renderFinish { s with retrace := false, samples := [], sink := s.sink ++ [f] }
  | ioin (hr : s.running = true) (n : Nat) : TurnEffect s (.ioin (some n)) (s.storeInput (BitVec.ofNat 16 n))
  | ioinBroken : TurnEffect s (.ioin none) s.raiseIo
  | ioinFinish (high : Byte) :
      TurnEffect s .ioinFinish (({ s with ioinHigh := none } : State).writeBytes 0xFD [high])
  | ioout (hr : s.running = true) : TurnEffect s (.ioout true) s.sampleOutput
  | iooutBroken : TurnEffect s (.ioout false) s.raiseIo
  | iooutFinish (v : Word) : TurnEffect s (.iooutFinish true) (({ s with iooutLow := none } : State).send v)
  | iooutFinishBroken : TurnEffect s (.iooutFinish false) ({ s with iooutLow := none } : State).raiseIo
  | release : TurnEffect s .release { s with resetHold := false }
  | reboot (hp : s.platform.ok = true) : TurnEffect s .endOfRun s.resetProcedure
  | shutdown : TurnEffect s .shutdown (s.raiseExt .shutdown)
  | loadOpen (image : List Byte) (body : Option (List Byte)) (hb : ∀ bs ∈ body, bs.length ≤ programCapacity) :
      TurnEffect s (.loadOpen image) (s.beginLoad body)
  | loadDirect (image : List Byte) (body : Option (List Byte)) (hb : ∀ bs ∈ body, bs.length ≤ programCapacity) :
      TurnEffect s (.loadDirect image) (s.beginLoad body)
  | loadCopy (k : Nat) (cs : List Host.Cell) (hl : s.load = some cs) (c : Host.Cell) (hc : c ∈ cs) :
      TurnEffect s (.loadCopy k) { s.writeBytes c.1 [c.2] with load := some (cs.eraseIdx k) }
  | loadDone : TurnEffect s .loadDone { s.writeBytes 1 [1] with load := none }
  | control (d : Bool) (c : Nat) : TurnEffect s (.control d c) { s with debugEn := d, clkDiv := c }
  | bootStatus (v : Byte) : TurnEffect s (.bootStatus v) (s.writeBytes 0 [v])

theorem cpuTurn_answers (s : State) : Answers (TurnEffect s .cpu) (cpuTurn s) := by
  cases hr : s.running with
  | true =>
    obtain ⟨t, ht, effect⟩ := cpuTurn_effect hr
    exact ht ▸ .next (.cpu hr effect)
  | false => exact cpuTurn_stopped hr ▸ .next (.idle _)

theorem vdcExec_answers (i : Instr) (s : State) : Answers (VdcEffect s) (vdcExec i s) := by
  cases hi : i.isDisplay with
  | true =>
    obtain ⟨t, ht, effect⟩ := vdcExec_effect hi s
    exact ht ▸ .next effect
  | false => exact vdcExec_foreign hi s ▸ .fault _

theorem vdcTurn_answers (s : State) : Answers (TurnEffect s .vdc) (vdcTurn s) := by
  cases hr : s.running with
  | true =>
    rcases vdcTurn_cases hr with ⟨h, -⟩ | ⟨w, rest, i, hq, -, -, h⟩ | ⟨w, rest, e, -, -, h⟩
    · exact h ▸ .next (.idle _)
    · exact h ▸ fun t ht => .vdc hr w rest hq (vdcExec_answers i _ t ht)
    · exact h ▸ .fault _
  | false => exact vdcTurn_stopped hr ▸ .next (.idle _)

theorem renderStartTurn_answers (s : State) : Answers (TurnEffect s .renderStart) (renderStartTurn s) := by
  refine .ite (fun h => .next ?_) fun _ => .next (.idle _)
  simp only [Bool.and_eq_true, decide_eq_true_eq] at h
  exact .renderStart h.1.1 h.1.2

theorem ioinTurn_answers (value : Option Nat) (s : State) : Answers (TurnEffect s (.ioin value)) (ioinTurn value s) := by
  refine .ite (fun h => ?_) fun _ => .next (.idle _)
  cases value with
  | some n => exact .next (.ioin (Bool.and_eq_true_iff.1 h).1 n)
  | none => exact .next .ioinBroken

theorem ioinFinishTurn_answers (s : State) : Answers (TurnEffect s .ioinFinish) (ioinFinishTurn s) := by
  unfold ioinFinishTurn
  split
  · exact .next (.ioinFinish _)
  · exact .next (.idle _)

theorem iooutTurn_answers (ok : Bool) (s : State) : Answers (TurnEffect s (.ioout ok)) (iooutTurn ok s) := by
  refine .ite (fun h => ?_) fun _ => .next (.idle _)
  cases ok with
  | true => exact .next (.ioout (Bool.and_eq_true_iff.1 h).1)
  | false => exact .next .iooutBroken

theorem iooutFinishTurn_answers (ok : Bool) (s : State) :
    Answers (TurnEffect s (.iooutFinish ok)) (iooutFinishTurn ok s) := by
  unfold iooutFinishTurn
  split
  · cases ok with
    | true => exact .next (.iooutFinish _)
    | false => exact .next .iooutFinishBroken
  · exact .next (.idle _)

theorem endOfRunTurn_answers (s : State) : Answers (TurnEffect s .endOfRun) (endOfRunTurn s) :=
  .ite (fun _ => .ite (fun _ => .fault _) fun _ => .ite (fun hp => .next (.reboot hp)) fun _ => .refused _)
    fun _ => .next (.idle _)

/-- The loader takes no more bytes than the program region holds (70_reset_and_hazards.md R238). -/
theorem validBody_length {magic : DWord} {image bs : List Byte} (h : bs ∈ validBody magic image) :
    bs.length ≤ programCapacity := by
  unfold validBody at h
  split at h
  · obtain ⟨⟨-, hsize, -⟩, hbs⟩ := Option.ite_none_right_eq_some.1 h
    exact Option.some.inj hbs ▸ (List.length_take_le _ _).trans hsize
  · cases h

theorem loadOpenTurn_answers (image : List Byte) (s : State) :
    Answers (TurnEffect s (.loadOpen image)) (loadOpenTurn image s) :=
  .ite (fun _ => .next (.loadOpen _ _ fun _ h => validBody_length h)) fun _ => .next (.idle _)

theorem loadDirectTurn_answers (image : List Byte) (s : State) :
    Answers (TurnEffect s (.loadDirect image)) (loadDirectTurn image s) := by
  refine .ite (fun _ => .next (.loadDirect _ _ fun bs h => ?_)) fun _ => .next (.idle _)
  obtain ⟨hlen, hbs⟩ := Option.ite_none_right_eq_some.1 h
  exact Option.some.inj hbs ▸ hlen

theorem loadCopyTurn_answers (k : Nat) (s : State) : Answers (TurnEffect s (.loadCopy k)) (loadCopyTurn k s) := by
  refine .ite (fun _ => ?_) fun _ => .next (.idle _)
  split
  · exact .next (.idle _)
  · rename_i cs hl
    split
    · exact .next (.idle _)
    · rename_i c hc
      exact .next (.loadCopy k cs hl c (List.mem_of_getElem? hc))

theorem runTurn_answers (turn : Turn) (s : State) : Answers (TurnEffect s turn) (runTurn turn s) := by
  cases turn with
  | cpu => exact cpuTurn_answers s
  | vdc => exact vdcTurn_answers s
  | renderStart => exact renderStartTurn_answers s
  | renderSample c => exact .ite (fun _ => .next (.renderSample c)) fun _ => .next (.idle _)
  | renderFinish => exact .ite (fun _ => .next (.renderFinish _)) fun _ => .next (.idle _)
  | ioin v => exact ioinTurn_answers v s
  | ioinFinish => exact ioinFinishTurn_answers s
  | ioout ok => exact iooutTurn_answers ok s
  | iooutFinish ok => exact iooutFinishTurn_answers ok s
  | release => exact .next .release
  | endOfRun => exact endOfRunTurn_answers s
  | shutdown => exact .ite (fun _ => .next (.idle _)) fun _ => .next .shutdown
  | loadOpen image => exact loadOpenTurn_answers image s
  | loadDirect image => exact loadDirectTurn_answers image s
  | loadCopy k => exact loadCopyTurn_answers k s
  | loadDone => exact .ite (fun _ => .next .loadDone) fun _ => .next (.idle _)
  | control d c => exact .next (.control d c)
  | bootStatus v => exact .ite (fun _ => .next (.bootStatus v)) fun _ => .next (.idle _)

/-- All that a step can do: its turn's effect, on the state with the turn taken off the schedule. -/
theorem step_inv {s t : State} (h : step s = .next t) : TurnEffect s.dropTurn s.nextTurn t :=
  runTurn_answers s.nextTurn s.dropTurn t h

/-! ## The invariant

One lemma per update of the state, each proving the clauses that the update touches; what an agent's turn does is a
composition of updates. -/

theorem ExcKind.bit_bit7 (f : ExcKind) : f.bit.getLsbD 7 = false := by cases f <;> rfl

/-- A fault field that holds its owner's bits only has no bit outside them (spec/10_state.md R20). -/
theorem getLsbD_of_owned {x owned : Byte} (h : x &&& ~~~owned = 0) (h7 : owned.getLsbD 7 = false) :
    x.getLsbD 7 = false := by
  have bit := congrArg (BitVec.getLsbD · 7) h
  simp only [BitVec.getLsbD_and, BitVec.getLsbD_not, h7] at bit
  simpa using bit

/-- An owner that adds one of its bits keeps to its bits. -/
theorem owned_or {x b owned : Byte} (h : x &&& ~~~owned = 0) (hb : b &&& ~~~owned = 0) : (x ||| b) &&& ~~~owned = 0 := by
  rw [BitVec.and_or_distrib_right, h, hb]
  rfl

/-- The bytes of a segment lie from its base on. -/
theorem numbered_range {base : Nat} {vs : List Byte} {c : Host.Cell} (h : c ∈ numbered base vs) :
    base ≤ c.1 ∧ c.1 < base + vs.length := by
  induction vs generalizing base with
  | nil => cases h
  | cons v vs ih =>
    simp only [List.length_cons]
    rcases List.mem_cons.1 h with rfl | h
    · exact ⟨le_refl _, by omega⟩
    · have := ih h
      omega

/-- Settles O50: every clause is about a closed field of `State.reset`. -/
theorem invariantHoldsAtReset : Obligations.InvariantHoldsAtReset where
  memCanonical := rfl
  pixCanonical := rfl
  crValue := rfl
  queueBounded := by decide
  queueDisplay := by rintro _ ⟨⟩
  excBit7 := by decide
  cpuExcBit7 := by decide
  vdcExcOnly := by decide
  ioExcOnly := by decide
  extExcOnly := by decide
  faultStops := by intro h; exact absurd rfl h
  pixelMode := by rintro ⟨⟩
  walkEnabled := by rintro ⟨⟩
  cursorBounded := by decide
  loadInRegion := by rintro _ ⟨⟩
  heldIsFresh := fun _ => ⟨rfl, rfl, rfl, rfl, rfl, rfl, rfl⟩
  cpuAccessTorn := by rintro _ ⟨⟩
  ioAccessTorn := by rintro (h | h) <;> exact absurd rfl h

namespace State.Inv
variable {s : State}

/-- Once the barrier is down, the clause on what lies behind it says nothing. -/
theorem held_vacuous {P : Prop} (hr : s.resetHold = false) : s.resetHold = true → P := by simp [hr]

theorem dropTurn (hs : s.Inv) : s.dropTurn.Inv := { hs with }

/-! ### Registers and memory -/

theorem setReg (hs : s.Inv) (r : RegId) (v : Word) : (s.setReg r v).Inv := { hs with }

theorem setPc (hs : s.Inv) (p : DWord) : State.Inv { s with pc := p } := { hs with }

theorem fetch (hs : s.Inv) : s.fetch.Inv := { hs with }

theorem setCr (hs : s.Inv) {c : Byte} (hc : crLegal c = true) : (s.setCr c).Inv := { hs with crValue := hc }

theorem setMem (hs : s.Inv) {m : List Host.Cell} (hm : Memory.wf Config.memSize m = true) :
    State.Inv { s with mem := m } := { hs with memCanonical := hm }

theorem setPix (hs : s.Inv) {p : List Host.Cell} (hp : Memory.wf Config.pixSize p = true) :
    State.Inv { s with pix := p } := { hs with pixCanonical := hp }

theorem writeBytes (hs : s.Inv) {a : Nat} {vs : List Byte} (h : a + vs.length ≤ 65536) : (s.writeBytes a vs).Inv :=
  hs.setMem (State.writeBytes_wf hs.memCanonical h)

theorem setByte (hs : s.Inv) {a : Nat} {v : Byte} (h : a < 65536) : (s.writeBytes a [v]).Inv :=
  hs.writeBytes (vs := [v]) h

theorem memWrite (hs : s.Inv) {w : Width} {a : Nat} {v : Word} (h : a + w.size ≤ 65536) : (s.memWrite w a v).Inv :=
  hs.writeBytes (by simpa using h)

/-! ### Faults -/

theorem startDecode (hs : s.Inv) : s.startDecode.Inv := { hs with cpuExcBit7 := by simp [State.startDecode] }

theorem raise (hs : s.Inv) (f : ExcKind) : (s.raise f).Inv :=
  { hs with cpuExcBit7 := by simp only [State.raise, BitVec.getLsbD_or, hs.cpuExcBit7, f.bit_bit7, Bool.or_false] }

theorem raiseVdc (hs : s.Inv) : s.raiseVdc.Inv := { hs with vdcExcOnly := owned_or hs.vdcExcOnly (by decide) }

theorem raiseIo (hs : s.Inv) : s.raiseIo.Inv := { hs with ioExcOnly := owned_or hs.ioExcOnly (by decide) }

theorem raiseExt (hs : s.Inv) {f : ExcKind} (hf : f.bit &&& ~~~(Config.excPrg ||| Config.excShutdown) = 0) :
    (s.raiseExt f).Inv := { hs with extExcOnly := owned_or hs.extExcOnly hf }

theorem faultsPresent_bit7 (hs : s.Inv) : s.faultsPresent.getLsbD 7 = false := by
  simp only [State.faultsPresent, BitVec.getLsbD_or, hs.excBit7, hs.cpuExcBit7,
    getLsbD_of_owned hs.vdcExcOnly (by decide), getLsbD_of_owned hs.ioExcOnly (by decide),
    getLsbD_of_owned hs.extExcOnly (by decide), Bool.or_false]

/-- The end of a cycle may stop the machine, so no access of the CPU is half done there. -/
theorem aggregate (hs : s.Inv) (hr : s.resetHold = false) (ha : s.cpuAccess = none) : s.aggregate.Inv :=
  { hs with
    excBit7 := hs.faultsPresent_bit7
    faultStops := fun h => by simpa using .inr h
    heldIsFresh := held_vacuous hr
    cpuAccessTorn := fun h hh => by simp [ha] at hh }

theorem endCycle (hs : s.Inv) (hr : s.resetHold = false) : s.endCycle.Inv := by
  by_cases ha : s.cpuAccess = none
  · rw [State.endCycle_closed ha]
    exact hs.aggregate hr ha
  · rwa [State.endCycle_open ha]

theorem halt (hs : s.Inv) (hr : s.resetHold = false) (ha : s.cpuAccess = none) : State.Inv { s with panic := true } :=
  { hs with
    faultStops := fun _ => rfl
    heldIsFresh := held_vacuous hr
    cpuAccessTorn := fun h hh => by simp [ha] at hh }

/-! ### 16-bit accesses half done -/

theorem openAccess (hs : s.Inv) (hr : s.running = true) {h : HalfAccess} (hp : s.platform.atomic16 = false)
    (hb : h.InRange) : State.Inv { s with cpuAccess := some h } := by
  obtain ⟨hrelease, hpanic⟩ := s.running_iff.1 hr
  exact { hs with
    heldIsFresh := held_vacuous hrelease
    cpuAccessTorn := by rintro _ ⟨⟩; exact ⟨hp, hpanic, hb⟩ }

theorem closeAccess (hs : s.Inv) : State.Inv { s with cpuAccess := none } :=
  { hs with
    heldIsFresh := fun h => by
      obtain ⟨hpanic, hwalk, hq, hmode, -, hin, hout⟩ := hs.heldIsFresh h
      exact ⟨hpanic, hwalk, hq, hmode, rfl, hin, hout⟩
    cpuAccessTorn := by rintro _ ⟨⟩ }

theorem openInput (hs : s.Inv) (hr : s.resetHold = false) (hp : s.platform.atomic16 = false) (high : Byte) :
    State.Inv { s with ioinHigh := some high } :=
  { hs with heldIsFresh := held_vacuous hr, ioAccessTorn := fun _ => hp }

theorem closeInput (hs : s.Inv) : State.Inv { s with ioinHigh := none } :=
  { hs with
    heldIsFresh := fun h => by
      obtain ⟨hpanic, hwalk, hq, hmode, haccess, -, hout⟩ := hs.heldIsFresh h
      exact ⟨hpanic, hwalk, hq, hmode, haccess, rfl, hout⟩
    ioAccessTorn := fun h => hs.ioAccessTorn (.inr (h.resolve_left (· rfl))) }

theorem openOutput (hs : s.Inv) (hr : s.resetHold = false) (hp : s.platform.atomic16 = false) (low : Byte) :
    State.Inv { s with iooutLow := some low } :=
  { hs with heldIsFresh := held_vacuous hr, ioAccessTorn := fun _ => hp }

theorem closeOutput (hs : s.Inv) : State.Inv { s with iooutLow := none } :=
  { hs with
    heldIsFresh := fun h => by
      obtain ⟨hpanic, hwalk, hq, hmode, haccess, hin, -⟩ := hs.heldIsFresh h
      exact ⟨hpanic, hwalk, hq, hmode, haccess, hin, rfl⟩
    ioAccessTorn := fun h => hs.ioAccessTorn (.inl (h.resolve_right (· rfl))) }

theorem send (hs : s.Inv) (v : Word) : (s.send v).Inv := { hs with }

theorem storeInput (hs : s.Inv) (hr : s.resetHold = false) (v : Word) : (s.storeInput v).Inv := by
  rcases s.storeInput_cases v with ⟨-, h⟩ | ⟨hp, h⟩ <;> rw [h]
  · exact hs.memWrite (by decide)
  · exact (hs.setByte (by decide)).openInput hr hp _

theorem sampleOutput (hs : s.Inv) (hr : s.resetHold = false) : s.sampleOutput.Inv := by
  rcases s.sampleOutput_cases with ⟨-, h⟩ | ⟨hp, h⟩ <;> rw [h]
  · exact hs.send _
  · exact hs.openOutput hr hp _

/-! ### The display -/

theorem push (hs : s.Inv) (hr : s.resetHold = false) {w : DWord} (hw : isDisplayWord w = true) (hq : s.q.length ≠ 32) :
    State.Inv { s with q := s.q ++ [w] } :=
  { hs with
    queueBounded := by
      have := hs.queueBounded
      simp only [Config.qCap, List.length_append, List.length_singleton] at this ⊢
      omega
    queueDisplay := fun v hv => by
      rcases List.mem_append.1 hv with hv | hv
      · exact hs.queueDisplay v hv
      · exact List.mem_singleton.1 hv ▸ hw
    heldIsFresh := held_vacuous hr }

theorem pop (hs : s.Inv) (hr : s.resetHold = false) {w : DWord} {rest : List DWord} (hq : s.q = w :: rest) :
    State.Inv { s with q := rest } :=
  { hs with
    queueBounded := by
      have := hs.queueBounded
      rw [hq] at this
      exact (Nat.le_succ _).trans this
    queueDisplay := fun v hv => hs.queueDisplay v (hq ▸ List.mem_cons_of_mem w hv)
    heldIsFresh := held_vacuous hr }

theorem setMode (hs : s.Inv) (hr : s.resetHold = false) {v : VMode} (hv : v ≠ .off)
    (hp : v = .pixel → s.platform.hasPixel = true) : State.Inv { s with vmode := v } :=
  { hs with pixelMode := hp, walkEnabled := fun _ => hv, heldIsFresh := held_vacuous hr }

theorem setCursor (hs : s.Inv) {x y : Word} (hx : x.toNat < 640) (hy : y.toNat < 480) :
    State.Inv { s with cx := x, cy := y } := { hs with cursorBounded := ⟨hx, hy⟩ }

theorem clear (hs : s.Inv) : s.clear.Inv := by
  unfold State.clear
  split
  · exact hs
  · exact hs.setMem (fillCells_wf hs.memCanonical (by decide))
  · exact hs.setMem (fillCells_wf hs.memCanonical (by decide))
  · exact hs.setPix (fillCells_wf hs.pixCanonical (by decide))

theorem startWalk (hs : s.Inv) (hr : s.resetHold = false) (hv : s.vmode ≠ .off) :
    State.Inv { s with retrace := true, samples := [] } :=
  { hs with walkEnabled := fun _ => hv, heldIsFresh := held_vacuous hr }

theorem finishWalk (hs : s.Inv) (f : Frame) :
    State.Inv { s with retrace := false, samples := [], sink := s.sink ++ [f] } :=
  { hs with
    walkEnabled := by rintro ⟨⟩
    heldIsFresh := fun h => by
      obtain ⟨hpanic, -, rest⟩ := hs.heldIsFresh h
      exact ⟨hpanic, rfl, rest⟩ }

/-! ### The HOST -/

theorem release (hs : s.Inv) : State.Inv { s with resetHold := false } := { hs with heldIsFresh := held_vacuous rfl }

theorem beginLoad (hs : s.Inv) {body : Option (List Byte)} (hb : ∀ bs ∈ body, bs.length ≤ programCapacity) :
    (s.beginLoad body).Inv := by
  cases body with
  | none => exact hs.raiseExt (by decide)
  | some bs =>
    refine { hs with loadInRegion := ?_ }
    rintro _ ⟨⟩ c hc
    have hrange := numbered_range hc
    have hlen := hb bs rfl
    simp only [programCapacity, Config.memSize, Config.prgStart] at hrange hlen ⊢
    omega

/-- The loader's next byte lies in the program region, and so do those still to come. -/
theorem loadCopy (hs : s.Inv) {cs : List Host.Cell} (hl : s.load = some cs) {c : Host.Cell} (hc : c ∈ cs) (k : Nat) :
    State.Inv { s.writeBytes c.1 [c.2] with load := some (cs.eraseIdx k) } := by
  refine { hs.setByte (v := c.2) (hs.loadInRegion cs hl c hc).2 with loadInRegion := ?_ }
  rintro _ ⟨⟩ d hd
  exact hs.loadInRegion cs hl d (List.mem_of_mem_eraseIdx hd)

theorem endLoad (hs : s.Inv) : State.Inv { s with load := none } := { hs with loadInRegion := by rintro _ ⟨⟩ }

/-- The reset procedure keeps `PIX` and the platform; all else it leaves as `State.reset` has it, but for the images. -/
theorem resetProcedure (hs : s.Inv) (hp : s.platform.ok = true) : s.resetProcedure.Inv :=
  { invariantHoldsAtReset with
    memCanonical := seededMemory_wf hp
    pixCanonical := hs.pixCanonical
    pixelMode := by rintro ⟨⟩
    cpuAccessTorn := by rintro _ ⟨⟩
    ioAccessTorn := by rintro (h | h) <;> exact absurd rfl h }

end State.Inv

/-! ### The effects -/

section
variable {s t : State}

theorem CpuEffect.inv {i : Instr} (h : CpuEffect i s t) (hs : s.Inv) (hr : s.running = true)
    (ha : s.cpuAccess = Option.none) (hd : decode s.ir = .ok i) : t.Inv := by
  have hrelease : s.resetHold = false := (s.running_iff.1 hr).1
  cases h with
  | none => exact hs
  | reg rd v => exact hs.setReg rd v
  | mem w a v _ hb => exact hs.memWrite hb
  | jump p => exact hs.setPc p
  | flags c hc => exact hs.setCr hc
  | branch p => exact (hs.setCr (c := Config.ccUndef) rfl).setPc p
  | halt => exact hs.halt hrelease ha
  | push hi hq => exact hs.push hrelease (by simp [isDisplayWord, hd, hi]) hq
  | raise f => exact hs.raise f
  | loadHalf h _ hp hb => exact hs.openAccess hr hp hb
  | storeHalf a low high _ hp ha hb => exact (hs.setByte (by omega)).openAccess hr hp ⟨ha, hb⟩
  | flagsHalf h _ hp hb => exact (hs.setCr (c := Config.ccUndef) rfl).openAccess hr hp hb
  | flagsRaise _ f => exact (hs.setCr (c := Config.ccUndef) rfl).raise f

/-- The second byte of an access lies in memory, as the first did. -/
theorem FinishEffect.inv (h : FinishEffect s t) (hs : s.Inv) : t.Inv := by
  cases h with
  | reg rd v => exact hs.closeAccess.setReg rd v
  | compare v dv => exact hs.closeAccess.setCr (flagsOfDelta_legal _)
  | store a high ha =>
    obtain ⟨-, -, -, hb⟩ := hs.cpuAccessTorn _ ha
    exact hs.closeAccess.setByte (by omega)

theorem CycleEffect.inv (h : CycleEffect s t) (hs : s.Inv) (hr : s.running = true) : t.Inv := by
  have hrelease : s.resetHold = false := (s.running_iff.1 hr).1
  have fetched : s.advance.fetch.Inv := (hs.setPc _).fetch
  cases h with
  | finished a ha =>
    have effect := finishAccess_effect ha
    exact (effect.inv hs).aggregate (effect.sameBeyondCpu.resetHold.trans hrelease) effect.cpuAccess
  | stray ha _ => exact ((hs.setPc _).raise _).aggregate hrelease ha
  | pending ha _ _ => exact fetched.aggregate hrelease ha
  | ran ha _ _ i hd u hu =>
    have effect := exec_inv hu
    exact (effect.inv fetched.startDecode hr ha hd).endCycle (effect.sameBeyondCpu.resetHold.trans hrelease)
  | unrecognized ha _ _ e _ => exact (fetched.startDecode.raise _).aggregate hrelease ha

theorem VdcEffect.inv (h : VdcEffect s t) (hs : s.Inv) (hr : s.resetHold = false) : t.Inv := by
  cases h with
  | none => exact hs
  | fault => exact hs.raiseVdc
  | mode v hv hp => exact (hs.setMode hr hv hp).clear
  | clear _ => exact hs.clear
  | cursor x y hx hy => exact hs.setCursor hx hy
  | glyph i hi b => exact hs.setByte (by omega)
  | pixel i hi b => exact hs.setPix (blit_wf hs.pixCanonical hi)

theorem TurnEffect.inv {turn : Turn} (h : TurnEffect s turn t) (hs : s.Inv) : t.Inv := by
  cases h with
  | idle => exact hs
  | cpu hr h => exact h.inv hs hr
  | vdc hr w rest hq h => exact h.inv (hs.pop (s.running_iff.1 hr).1 hq) (s.running_iff.1 hr).1
  | renderStart hr hv => exact hs.startWalk (s.running_iff.1 hr).1 hv
  | renderSample c => exact { hs with }
  | renderFinish f => exact hs.finishWalk f
  | ioin hr n => exact hs.storeInput (s.running_iff.1 hr).1 _
  | ioinBroken | iooutBroken => exact hs.raiseIo
  | ioinFinish high => exact hs.closeInput.setByte (by decide)
  | ioout hr => exact hs.sampleOutput (s.running_iff.1 hr).1
  | iooutFinish v => exact hs.closeOutput.send v
  | iooutFinishBroken => exact hs.closeOutput.raiseIo
  | release => exact hs.release
  | reboot hp => exact hs.resetProcedure hp
  | shutdown => exact hs.raiseExt (by decide)
  | loadOpen image body hb | loadDirect image body hb => exact hs.beginLoad hb
  | loadCopy k cs hl c hc => exact hs.loadCopy hl hc k
  | loadDone => exact (hs.setByte (by decide)).endLoad
  | control d c => exact { hs with }
  | bootStatus v => exact hs.setByte (by decide)

end

/-- Settles O51: a step is its turn's effect, a composition of updates each of which keeps the invariant. -/
theorem everyStepKeepsTheInvariant : Obligations.EveryStepKeepsTheInvariant := by
  intro s t hs h
  exact (step_inv h).inv hs.dropTurn

/-! ## Faults stay (spec/10_state.md R18, R20, R21) -/

/-- Bits that are kept are kept when more are added. -/
theorem and_or_of_and {x y : Byte} (h : x &&& y = x) (z : Byte) : x &&& (y ||| z) = x := by
  rw [BitVec.and_or_distrib_left, h]
  apply BitVec.eq_of_getElem_eq
  simp +contextual

/-- `panic` and every set bit of the four fields are still set. -/
def State.KeepsFaults (s t : State) : Prop :=
  (s.panic = true → t.panic = true) ∧ s.exc &&& t.exc = s.exc ∧ s.vdcExc &&& t.vdcExc = s.vdcExc ∧
    s.ioExc &&& t.ioExc = s.ioExc ∧ s.extExc &&& t.extExc = s.extExc

namespace State.KeepsFaults
variable {s t : State}

theorem refl (s : State) : s.KeepsFaults s :=
  ⟨id, BitVec.and_self, BitVec.and_self, BitVec.and_self, BitVec.and_self⟩

theorem raiseVdc (s : State) : s.KeepsFaults s.raiseVdc :=
  ⟨id, BitVec.and_self, and_or_of_and BitVec.and_self _, BitVec.and_self, BitVec.and_self⟩

theorem raiseIo (s : State) : s.KeepsFaults s.raiseIo :=
  ⟨id, BitVec.and_self, BitVec.and_self, and_or_of_and BitVec.and_self _, BitVec.and_self⟩

theorem raiseExt (s : State) (f : ExcKind) : s.KeepsFaults (s.raiseExt f) :=
  ⟨id, BitVec.and_self, BitVec.and_self, BitVec.and_self, and_or_of_and BitVec.and_self _⟩

/-- The aggregation only adds bits to `exc`, and only sets `panic`. -/
theorem aggregate (h : s.KeepsFaults t) : s.KeepsFaults t.aggregate := by
  obtain ⟨hpanic, hexc, hrest⟩ := h
  refine ⟨fun hp => by simp [hpanic hp], ?_, hrest⟩
  exact and_or_of_and (and_or_of_and (and_or_of_and (and_or_of_and hexc _) _) _) _

theorem endCycle (h : s.KeepsFaults t) : s.KeepsFaults t.endCycle := by
  by_cases ha : t.cpuAccess = none
  · rw [State.endCycle_closed ha]
    exact h.aggregate
  · rwa [State.endCycle_open ha]

theorem clear (h : s.KeepsFaults t) : s.KeepsFaults t.clear := by
  unfold State.clear
  split <;> exact h

theorem beginLoad (s : State) (body : Option (List Byte)) : s.KeepsFaults (s.beginLoad body) := by
  cases body with
  | none => exact raiseExt s .prg
  | some bs => exact refl s

theorem storeInput (s : State) (v : Word) : s.KeepsFaults (s.storeInput v) := by
  rcases s.storeInput_cases v with ⟨-, h⟩ | ⟨-, h⟩ <;> rw [h] <;> exact refl s

theorem sampleOutput (s : State) : s.KeepsFaults s.sampleOutput := by
  rcases s.sampleOutput_cases with ⟨-, h⟩ | ⟨-, h⟩ <;> rw [h] <;> exact refl s

end State.KeepsFaults

section
variable {s t : State}

theorem CpuEffect.keepsFaults {i : Instr} (h : CpuEffect i s t) : s.KeepsFaults t := by
  cases h with
  | halt =>
    obtain ⟨-, rest⟩ := State.KeepsFaults.refl s
    exact ⟨fun _ => rfl, rest⟩
  | _ => exact .refl s

theorem FinishEffect.keepsFaults (h : FinishEffect s t) : s.KeepsFaults t := by
  cases h <;> exact .refl s

theorem CycleEffect.keepsFaults (h : CycleEffect s t) : s.KeepsFaults t := by
  cases h with
  | finished a ha => exact (finishAccess_effect ha).keepsFaults.aggregate
  | ran _ _ _ i _ u hu => exact State.KeepsFaults.endCycle (exec_inv hu).keepsFaults
  | stray | pending | unrecognized => exact State.KeepsFaults.aggregate (.refl s)

theorem VdcEffect.keepsFaults (h : VdcEffect s t) : s.KeepsFaults t := by
  cases h with
  | fault => exact .raiseVdc s
  | mode v _ _ => exact .clear (.refl s)
  | clear _ => exact .clear (.refl s)
  | _ => exact .refl s

theorem TurnEffect.keepsFaults {turn : Turn} (h : TurnEffect s turn t) : t = s.resetProcedure ∨ s.KeepsFaults t := by
  cases h with
  | reboot => exact .inl rfl
  | cpu _ h => exact .inr h.keepsFaults
  | vdc _ _ _ _ h => exact .inr h.keepsFaults
  | ioin _ n => exact .inr (.storeInput s _)
  | ioinBroken | iooutBroken | iooutFinishBroken => exact .inr (.raiseIo s)
  | ioout => exact .inr (.sampleOutput s)
  | shutdown => exact .inr (.raiseExt s _)
  | loadOpen _ body | loadDirect _ body => exact .inr (.beginLoad s body)
  | _ => exact .inr (.refl s)

end

/-- Settles O53: every turn but the soft reboot's keeps the fault fields' bits; a turn's fault is a bit added. -/
theorem onlyResetClearsFaults : Obligations.OnlyResetClearsFaults := by
  intro s t h
  exact (step_inv h).keepsFaults

/-! ## The CPU's state (spec/10_state.md R10) -/

namespace State.SameCpu
variable {s t : State}

theorem refl (s : State) : s.SameCpu s := ⟨rfl, rfl, rfl, rfl, rfl, rfl, rfl⟩

theorem clear (h : s.SameCpu t) : s.SameCpu t.clear := by
  unfold State.clear
  split
  · exact h
  all_goals exact { h with }

theorem beginLoad (s : State) (body : Option (List Byte)) : s.SameCpu (s.beginLoad body) := by
  cases body <;> exact { refl s with }

theorem storeInput (s : State) (v : Word) : s.SameCpu (s.storeInput v) := by
  rcases s.storeInput_cases v with ⟨-, h⟩ | ⟨-, h⟩ <;> rw [h] <;> exact { refl s with }

theorem sampleOutput (s : State) : s.SameCpu s.sampleOutput := by
  rcases s.sampleOutput_cases with ⟨-, h⟩ | ⟨-, h⟩ <;> rw [h] <;> exact { refl s with }

end State.SameCpu

section
variable {s t : State}

theorem VdcEffect.sameCpu (h : VdcEffect s t) : s.SameCpu t := by
  cases h with
  | mode v _ _ => exact .clear { State.SameCpu.refl s with }
  | clear _ => exact .clear (.refl s)
  | _ => exact { State.SameCpu.refl s with }

theorem TurnEffect.sameCpu {turn : Turn} (h : TurnEffect s turn t) (hturn : turn ≠ .cpu) :
    s.SameCpu t ∨ (turn = .endOfRun ∧ t = s.resetProcedure) := by
  cases h with
  | cpu => exact absurd rfl hturn
  | reboot => exact .inr ⟨rfl, rfl⟩
  | vdc _ _ _ _ h => exact .inl { h.sameCpu with }
  | ioin _ n => exact .inl (.storeInput s _)
  | ioout => exact .inl (.sampleOutput s)
  | loadOpen _ body | loadDirect _ body => exact .inl (.beginLoad s body)
  | _ => exact .inl { State.SameCpu.refl s with }

end

/-- Settles O54: by the effects of the other agents' turns, none of which touches a field of the CPU. -/
theorem onlyTheCpuWritesCpuState : Obligations.OnlyTheCpuWritesCpuState := by
  intro s t hturn h
  exact ((step_inv h).sameCpu hturn).imp_left fun same => { same with }

/-! ## The queue (spec/10_state.md R27, 20_memory.md R56) -/

theorem State.clear_q (s : State) : s.clear.q = s.q := by
  unfold State.clear
  split <;> rfl

theorem State.beginLoad_q (s : State) (body : Option (List Byte)) : (s.beginLoad body).q = s.q := by
  cases body <;> rfl

theorem State.storeInput_q (s : State) (v : Word) : (s.storeInput v).q = s.q := by
  rcases s.storeInput_cases v with ⟨-, h⟩ | ⟨-, h⟩ <;> simp [h]

theorem State.sampleOutput_q (s : State) : s.sampleOutput.q = s.q := by
  rcases s.sampleOutput_cases with ⟨-, h⟩ | ⟨-, h⟩ <;> simp [h]

theorem State.endCycle_q (s : State) : s.endCycle.q = s.q := by
  unfold State.endCycle
  split <;> rfl

theorem State.endCycle_ir (s : State) : s.endCycle.ir = s.ir := by
  unfold State.endCycle
  split <;> rfl

section
variable {s t : State}

theorem CpuEffect.queue {i : Instr} (h : CpuEffect i s t) : t.q = s.q ∨ t.q = s.q ++ [t.ir] := by
  cases h with
  | push => exact .inr rfl
  | _ => exact .inl rfl

theorem FinishEffect.queue (h : FinishEffect s t) : t.q = s.q := by cases h <;> rfl

theorem CycleEffect.queue (h : CycleEffect s t) : t.q = s.q ∨ t.q = s.q ++ [t.ir] := by
  cases h with
  | finished a ha => exact .inl (finishAccess_effect ha).queue
  | ran _ _ _ i _ u hu =>
    rw [State.endCycle_q, State.endCycle_ir]
    exact (exec_inv hu).queue
  | stray | pending | unrecognized => exact .inl rfl

theorem VdcEffect.queue (h : VdcEffect s t) : t.q = s.q := by
  cases h with
  | mode v _ _ => exact State.clear_q _
  | clear _ => exact s.clear_q
  | _ => rfl

theorem TurnEffect.queue {turn : Turn} (h : TurnEffect s turn t) :
    t.q = s.q ∨ (turn = .cpu ∧ t.q = s.q ++ [t.ir]) ∨ (turn = .vdc ∧ ∃ w, s.q = w :: t.q) ∨
      (turn = .endOfRun ∧ t.q = []) := by
  cases h with
  | cpu _ h => exact h.queue.imp_right fun h => .inl ⟨rfl, h⟩
  | vdc _ w rest hq h =>
    have hrest : t.q = rest := h.queue
    exact .inr (.inr (.inl ⟨rfl, w, hrest ▸ hq⟩))
  | reboot => exact .inr (.inr (.inr ⟨rfl, rfl⟩))
  | ioin _ n => exact .inl (s.storeInput_q _)
  | ioout => exact .inl s.sampleOutput_q
  | loadOpen _ body | loadDirect _ body => exact .inl (s.beginLoad_q body)
  | _ => exact .inl rfl

end

/-- Settles O56: of all effects only forwarding, the VDC's pop and the reset touch the queue. -/
theorem queueIsFifo : Obligations.QueueIsFifo := by
  intro s t h
  exact (step_inv h).queue

/-! ## Stopped agents (spec/40_cpu_cycle.md R98, 10_state.md R21) -/

theorem State.running_eq_false {s : State} (h : s.resetHold = true ∨ s.panic = true) : s.running = false := by
  rcases h with h | h <;> simp [State.running, h]

theorem renderStartTurn_stopped {s : State} (hr : s.running = false) : renderStartTurn s = .next s := by
  simp [renderStartTurn, hr]

theorem ioinTurn_stopped {s : State} (value : Option Nat) (hr : s.running = false) : ioinTurn value s = .next s := by
  simp [ioinTurn, hr]

theorem iooutTurn_stopped {s : State} (ok : Bool) (hr : s.running = false) : iooutTurn ok s = .next s := by
  simp [iooutTurn, hr]

/-- Settles O30: each of the five turns asks whether the machine runs before anything else. -/
theorem stoppedAgentsTakeNoStep : Obligations.StoppedAgentsTakeNoStep := by
  intro s hstop hturn
  have hr : s.dropTurn.running = false := State.running_eq_false hstop
  rcases hturn with h | h | h | ⟨v, h⟩ | ⟨ok, h⟩ <;> rw [step_eq h]
  · exact cpuTurn_stopped hr
  · exact vdcTurn_stopped hr
  · exact renderStartTurn_stopped hr
  · exact ioinTurn_stopped v hr
  · exact iooutTurn_stopped ok hr

/-! ## The I/O agents (spec/47_ioport.md R192, R193) -/

theorem lowByte_ofNat (n : Nat) : (BitVec.ofNat 16 n).extractLsb' 0 8 = BitVec.ofNat 8 n := by
  apply BitVec.eq_of_toNat_eq
  simp only [BitVec.extractLsb'_toNat, BitVec.toNat_ofNat, Nat.shiftRight_zero]
  omega

theorem highByte_ofNat (n : Nat) : (BitVec.ofNat 16 n).extractLsb' 8 8 = BitVec.ofNat 8 (n / 256) := by
  apply BitVec.eq_of_toNat_eq
  simp only [BitVec.extractLsb'_toNat, BitVec.toNat_ofNat, Nat.shiftRight_eq_div_pow]
  omega

/-- A little-endian 16-bit value (spec/20_memory.md R46). -/
theorem toNat_append_byte (high low : Byte) : (high ++ low : Word).toNat = low.toNat + 256 * high.toNat := by
  rw [BitVec.toNat_append, ← Nat.shiftLeft_add_eq_or_of_lt low.isLt, Nat.shiftLeft_eq]
  omega

section
variable {s : State}

theorem ioinTurn_enabled (hr : s.running = true) (hf : s.ioinHigh = none) (n : Nat) :
    ioinTurn (some n) s = .next (s.storeInput (BitVec.ofNat 16 n)) := by
  simp [ioinTurn, hr, hf]

theorem ioinTurn_broken (hr : s.running = true) (hf : s.ioinHigh = none) : ioinTurn none s = .next s.raiseIo := by
  simp [ioinTurn, hr, hf]

theorem ioinFinishTurn_some {high : Byte} (h : s.ioinHigh = some high) :
    ioinFinishTurn s = .next (({ s with ioinHigh := none } : State).writeBytes 0xFD [high]) := by
  simp [ioinFinishTurn, h]

theorem storeInput_atomic (hp : s.platform.atomic16 = true) (n : Nat) :
    s.storeInput (BitVec.ofNat 16 n) = s.writeBytes 0xFC [BitVec.ofNat 8 n, BitVec.ofNat 8 (n / 256)] := by
  simp [State.storeInput, hp, State.memWrite, storedBytes, lowByte_ofNat, highByte_ofNat, Config.ioIn]

theorem storeInput_half (hp : s.platform.atomic16 = false) (n : Nat) :
    s.storeInput (BitVec.ofNat 16 n) =
      ({ s with ioinHigh := some (BitVec.ofNat 8 (n / 256)) } : State).writeBytes 0xFC [BitVec.ofNat 8 n] := by
  simp [State.storeInput, hp, State.writeBytes, lowByte_ofNat, highByte_ofNat, Config.ioIn]

theorem iooutTurn_enabled (hr : s.running = true) (hf : s.iooutLow = none) :
    iooutTurn true s = .next s.sampleOutput := by
  simp [iooutTurn, hr, hf]

theorem iooutTurn_broken (hr : s.running = true) (hf : s.iooutLow = none) : iooutTurn false s = .next s.raiseIo := by
  simp [iooutTurn, hr, hf]

theorem iooutFinishTurn_some {low : Byte} (h : s.iooutLow = some low) :
    iooutFinishTurn true s = .next (({ s with iooutLow := none } : State).send (s.readByte 0xFF ++ low)) := by
  simp [iooutFinishTurn, h, Config.ioOut]

theorem iooutFinishTurn_broken {low : Byte} (h : s.iooutLow = some low) :
    iooutFinishTurn false s = .next ({ s with iooutLow := none } : State).raiseIo := by
  simp [iooutFinishTurn, h]

end

/-- Settles O42: IOIN's turn is `storeInput`, whose bytes are those of the value mod 2^16, or the raise. -/
theorem ioinStoresTheInputValue : Obligations.IoinStoresTheInputValue := by
  constructor
  · intro s hhold hpanic hfree
    have hr : s.dropTurn.running = true := s.running_iff.2 ⟨hhold, hpanic⟩
    refine ⟨fun n hturn hp => ?_, fun n hturn hp => ?_, fun hturn => ?_⟩ <;> rw [step_eq hturn]
    · exact (ioinTurn_enabled hr hfree n).trans (congrArg _ (storeInput_atomic (s := s.dropTurn) hp n))
    · exact (ioinTurn_enabled hr hfree n).trans (congrArg _ (storeInput_half (s := s.dropTurn) hp n))
    · exact ioinTurn_broken hr hfree
  · intro s high hturn hhigh
    rw [step_eq hturn]
    exact ioinFinishTurn_some hhigh

/-- Settles O43: IOOUT's turn is `sampleOutput` or the raise; the value sent has the two bytes read, low byte first. -/
theorem iooutSendsTheOutputCell : Obligations.IooutSendsTheOutputCell := by
  constructor
  · intro s hhold hpanic hfree
    have hr : s.dropTurn.running = true := s.running_iff.2 ⟨hhold, hpanic⟩
    refine ⟨fun hturn hp => ?_, fun hturn hp => ?_, fun hturn => ?_⟩
    · refine ⟨s.readWord 0xFE, toNat_append_byte _ _, ?_⟩
      rw [step_eq hturn]
      exact (iooutTurn_enabled hr hfree).trans (congrArg _ (if_pos hp))
    · rw [step_eq hturn]
      exact (iooutTurn_enabled hr hfree).trans (congrArg _ (if_neg (by simpa using hp)))
    · rw [step_eq hturn]
      exact iooutTurn_broken hr hfree
  · intro s low hlow
    refine ⟨fun hturn => ⟨s.readByte 0xFF ++ low, toNat_append_byte _ _, ?_⟩, fun hturn => ?_⟩
    · rw [step_eq hturn]
      exact iooutFinishTurn_some (s := s.dropTurn) hlow
    · rw [step_eq hturn]
      exact iooutFinishTurn_broken (s := s.dropTurn) hlow

/-! ## The frame of the instructions with no destination (spec/10_state.md R17, 20_memory.md R51) -/

/-- All that `cmp`, the jumps, `halt`, `nop`, `rst` and the display class can do, each effect with the instructions that
have it. -/
inductive ControlEffect (i : Instr) (s : State) : State → Prop where
  | none : ControlEffect i s s
  | jump (p : DWord) (hi : ∃ a, i = .jmp a) : ControlEffect i s { s with pc := p }
  | flags (c : Byte) (hi : (∃ m rd opnd, i = .cmp m rd opnd) ∨ ∃ a, i = .breq a ∨ i = .brneq a) :
      ControlEffect i s (s.setCr c)
  | branch (p : DWord) (hi : ∃ a, i = .breq a ∨ i = .brneq a) :
      ControlEffect i s { s.setCr Config.ccUndef with pc := p }
  | halt (hi : i = .halt) : ControlEffect i s { s with panic := true }
  | push (hi : i.isDisplay = true) : ControlEffect i s { s with q := s.q ++ [s.ir] }
  | raise (f : ExcKind) : ControlEffect i s (s.raise f)
  | cmpHalf (h : HalfAccess) (hi : ∃ m rd opnd, i = .cmp m rd opnd) (hp : s.platform.atomic16 = false) :
      ControlEffect i s { s.setCr Config.ccUndef with cpuAccess := some h }
  | cmpRaise (f : ExcKind) (hi : ∃ m rd opnd, i = .cmp m rd opnd) :
      ControlEffect i s ((s.setCr Config.ccUndef).raise f)

theorem execCmp_control (m : ModeFlags) (rd : RegId) (opnd : Word) (s : State) :
    Answers (ControlEffect (.cmp m rd opnd) s) (execCmp m rd opnd s) := by
  have hi : ∃ m' rd' opnd', Instr.cmp m rd opnd = .cmp m' rd' opnd' := ⟨m, rd, opnd, rfl⟩
  obtain ⟨t, h, ⟨c, -, rfl⟩ | ⟨a, hp, -, rfl⟩ | ⟨f, rfl⟩⟩ := execCmp_effect m rd opnd s
  · exact h ▸ .next (.flags c (.inl hi))
  · exact h ▸ .next (.cmpHalf a hi hp)
  · exact h ▸ .next (.cmpRaise f hi)

theorem execJmp_control (a : Word) (s : State) : Answers (ControlEffect (.jmp a) s) (execJmp a s) := by
  unfold execJmp
  split
  · exact .next (.jump _ ⟨a, rfl⟩)
  · exact .next (.raise _)

theorem branchIf_control {i : Instr} (hi : ∃ a, i = .breq a ∨ i = .brneq a) (flag : Byte) (target : Word) (s : State) :
    ControlEffect i s (s.branchIf flag target) := by
  rcases branchIf_effect s flag target with ⟨f, h⟩ | h | ⟨p, h⟩ <;> rw [h]
  · exact .raise f
  · exact .flags _ (.inr hi)
  · exact .branch p hi

theorem forward_control {i : Instr} (hi : i.isDisplay = true) (s : State) : ControlEffect i s s.forward := by
  rcases forward_effect s with ⟨-, h⟩ | ⟨-, h⟩ <;> rw [h]
  · exact .raise _
  · exact .push hi

section
variable {i : Instr} {s t : State}

theorem ControlEffect.regs (h : ControlEffect i s t) : t.regs = s.regs := by cases h <;> rfl

theorem ControlEffect.mem (h : ControlEffect i s t) : t.mem = s.mem := by cases h <;> rfl

theorem ControlEffect.cr (h : ControlEffect i s t) :
    (∃ m rd opnd, i = .cmp m rd opnd) ∨ (∃ a, i = .breq a ∨ i = .brneq a) ∨ t.cr = s.cr := by
  cases h with
  | flags _ hi => exact hi.imp_right .inl
  | branch _ hi => exact .inr (.inl hi)
  | cmpHalf _ hi _ => exact .inl hi
  | cmpRaise _ hi => exact .inl hi
  | _ => exact .inr (.inr rfl)

theorem ControlEffect.pc (h : ControlEffect i s t) : (∃ a, i = .jmp a ∨ i = .breq a ∨ i = .brneq a) ∨ t.pc = s.pc := by
  cases h with
  | jump _ hi => exact .inl (hi.imp fun _ => .inl)
  | branch _ hi => exact .inl (hi.imp fun _ => .inr)
  | _ => exact .inr rfl

theorem ControlEffect.panic (h : ControlEffect i s t) : i = .halt ∨ t.panic = s.panic := by
  cases h with
  | halt hi => exact .inl hi
  | _ => exact .inr rfl

theorem ControlEffect.q (h : ControlEffect i s t) : i.isDisplay = true ∨ t.q = s.q := by
  cases h with
  | push hi => exact .inl hi
  | _ => exact .inr rfl

theorem ControlEffect.cpuAccess (h : ControlEffect i s t) :
    ((∃ m rd opnd, i = .cmp m rd opnd) ∧ s.platform.atomic16 = false) ∨ t.cpuAccess = s.cpuAccess := by
  cases h with
  | cmpHalf _ hi hp => exact .inl ⟨hi, hp⟩
  | _ => exact .inr rfl

end

/-- Settles O24: each of the instructions has a `ControlEffect`, and that effect has the frame. -/
theorem noDestinationFrame : Obligations.NoDestinationFrame := by
  intro i s t hi he
  have effect : ControlEffect i s t := by
    rcases hi with ⟨m, rd, opnd, rfl⟩ | ⟨a, rfl | rfl | rfl⟩ | rfl | rfl | rfl | hi
    · exact execCmp_control m rd opnd s t he
    · exact execJmp_control a s t he
    · exact Answers.next (branchIf_control ⟨a, .inl rfl⟩ _ _ s) t he
    · exact Answers.next (branchIf_control ⟨a, .inr rfl⟩ _ _ s) t he
    · exact Answers.next (.halt rfl) t he
    · exact Answers.next .none t he
    · exact Answers.next (.raise .prg) t he
    · exact Answers.next (forward_control hi s) t ((exec_display hi s).symm.trans he)
  exact ⟨State.reg_congr effect.regs, State.readByte_congr effect.mem, (exec_inv he).sameBeyondCpu, effect.cr, effect.pc,
    effect.panic, effect.q, effect.cpuAccess⟩

/-! ## Reset and the first fetch (spec/70_reset_and_hazards.md R230, R234) -/

/-- Settles O45: the default platform's images are empty, so nothing is seeded. -/
theorem resetStateIsReset : Obligations.ResetStateIsReset := by
  refine ⟨rfl, fun r => ?_, fun a => rfl, rfl, rfl, rfl⟩
  simp [State.reg, State.reset]

/-- What `vs` stored from `base` on reads as: its bytes, and below and above them what was there. -/
theorem readCell_blit_getD (m : List Host.Cell) (base : Nat) (vs : List Byte) (a : Nat) :
    readCell (blit m base vs) a =
      if base ≤ a ∧ a < base + vs.length then vs.getD (a - base) 0 else readCell m a := by
  rw [readCell_blit]
  by_cases h : base ≤ a ∧ a < base + vs.length
  · rw [dif_pos h, if_pos h, List.getD_eq_getElem vs 0 (by omega)]
  · rw [dif_neg h, if_neg h]

/-- The two images fit their regions (R230). -/
theorem Platform.ok_iff (p : Platform) : p.ok = true ↔ p.romImage.length ≤ 3840 ∧ p.bootText.length ≤ 250 := by
  simp [Platform.ok]

/-- RAM after the reset procedure: the two images, which do not overlap, and zeros. -/
theorem readCell_seededMemory {p : Platform} (hp : p.ok = true) (a : Nat) :
    readCell (seededMemory p) a =
      if 0x100 ≤ a ∧ a < 0x100 + p.romImage.length then p.romImage.getD (a - 0x100) 0
      else if 0x2 ≤ a ∧ a < 0x2 + p.bootText.length then p.bootText.getD (a - 0x2) 0
      else 0 := by
  have htext := ((Platform.ok_iff p).1 hp).2
  rw [seededMemory, readCell_blit_getD, readCell_blit_getD]
  by_cases hrom : 0x100 ≤ a ∧ a < 0x100 + p.romImage.length
  · rw [if_neg (by simp only [Config.bootText]; omega)]
    simp only [if_pos hrom]
  · simp only [if_neg hrom]
    rfl

/-- Settles O44: the fields are `State.reset`'s, and RAM reads as the seeded images. -/
theorem resetProcedureLeavesTheResetState : Obligations.ResetProcedureLeavesTheResetState := by
  rintro s _ hp rfl
  exact ⟨resetStateIsReset.2.1, rfl, rfl, rfl, rfl, rfl, rfl, rfl, rfl, rfl, rfl, rfl, rfl, rfl, rfl, rfl, rfl, rfl, rfl,
    readCell_seededMemory hp⟩

/-- The code region after the reset procedure holds the ROM image, with 0 past its end. -/
theorem readByte_rom {s : State} (hp : s.platform.ok = true) (k : Nat) :
    s.resetProcedure.readByte (0x100 + k) = s.platform.romImage.getD k 0 := by
  have htext := ((Platform.ok_iff _).1 hp).2
  rw [State.readByte, State.resetProcedure_mem, readCell_seededMemory hp]
  by_cases hk : k < s.platform.romImage.length
  · rw [if_pos (by omega), Nat.add_sub_cancel_left]
  · rw [if_neg (by omega), if_neg (by omega), List.getD_eq_default _ _ (by omega)]

/-- The state after the HOST's release (R234). -/
def State.released (s : State) : State := { s with resetHold := false, sched := s.sched.tail }

theorem step_release {s : State} (h : s.nextTurn = .release) : step s = .next s.released := step_eq h

/-- Dispatching a word always answers a next state, and the word stays in `ir`. -/
theorem dispatch_next (s : State) : ∃ u, dispatch s = .next u ∧ u.ir = s.ir := by
  cases hd : decode s.ir with
  | ok i =>
    obtain ⟨u, hu, effect⟩ := exec_effect i s
    exact ⟨u, (dispatch_ok hd).trans hu, effect.sameBeyondCpu.ir⟩
  | error e => exact ⟨_, dispatch_error hd, rfl⟩

/-- A cycle that fetches runs the word, from the state with the word in `ir`, to the end of the cycle. -/
theorem cpuTurn_fetched {s u : State} (hr : s.running = true) (ha : s.cpuAccess = none)
    (hpc : (s.pc + 4).toNat ≤ 65532) (he : s.exc = 0) (hu : dispatch s.advance.fetch.startDecode = .next u) :
    cpuTurn s = .next u.endCycle := by
  have hstray : ¬s.advance.stray = true := fun h => absurd ((State.stray_iff _).1 h) (Nat.not_lt.2 hpc)
  unfold cpuTurn
  rw [if_pos hr, ha]
  simp only [startCycle]
  rw [if_neg hstray, if_neg (by simpa using he), hu]
  rfl

theorem State.endCycle_eq (s : State) : s.endCycle = if s.cpuAccess = none then s.aggregated else s := by
  split
  · exact State.endCycle_closed ‹_›
  · exact State.endCycle_open ‹_›

/-- With nothing scheduled a running machine's turn is the CPU's (assumption 1). -/
theorem nextTurn_cpu {s : State} (hr : s.running = true) (h : s.sched = [] ∨ s.sched.head? = some .cpu) :
    s.nextTurn = .cpu := by
  obtain ⟨hhold, hpanic⟩ := s.running_iff.1 hr
  rcases h with h | h
  · simp [State.nextTurn, h, State.defaultTurn, hhold, hpanic]
  · obtain ⟨ts, hts⟩ := List.head?_eq_some_iff.1 h
    exact State.nextTurn_cons hts

theorem run_succ {s t : State} (h : step s = .next t) (k : Nat) :
    Host.Core.run Sys2Proof.core (k + 1) s = Host.Core.run Sys2Proof.core k t := by
  have hcore : Sys2Proof.core.step s = .next t := h
  simp only [Host.Core.run, hcore]

/-- What the first cycle after a reset and a release dispatches: `pc` at `ROM_START` and the ROM image's first word. -/
theorem firstFetch {s : State} (hp : s.platform.ok = true) :
    s.resetProcedure.released.dropTurn.advance.fetch.startDecode =
      { s.resetProcedure with
        resetHold := false
        pc := 0x100
        ir := wordOfBytes (s.platform.romImage.getD 0 0) (s.platform.romImage.getD 1 0) (s.platform.romImage.getD 2 0)
          (s.platform.romImage.getD 3 0)
        sched := s.sched.tail.tail } := by
  rw [← readByte_rom hp 0, ← readByte_rom hp 1, ← readByte_rom hp 2, ← readByte_rom hp 3]
  rfl

/-- Settles O46: the release keeps all but `reset_hold`, so the first cycle is one of the reset state, with `pc` = 0x0100 and
the ROM image's first word fetched there. -/
theorem releaseThenFirstFetchAtRomStart : Obligations.ReleaseThenFirstFetchAtRomStart := by
  refine ⟨fun s => step_release, ?_⟩
  rintro s _ _ hp rfl rfl hturn hsched
  have hcpu : s.resetProcedure.released.nextTurn = .cpu := nextTurn_cpu rfl hsched
  obtain ⟨u, hu, hir⟩ := dispatch_next s.resetProcedure.released.dropTurn.advance.fetch.startDecode
  have hcycle : step s.resetProcedure.released = .next u.endCycle :=
    (step_eq hcpu).trans (cpuTurn_fetched rfl rfl (by simp [State.released, State.reset]) rfl hu)
  rw [firstFetch hp] at hu hir
  have hrun : Host.Core.run Sys2Proof.core 2 s.resetProcedure = .next u.endCycle :=
    (run_succ (step_release hturn) 1).trans (run_succ hcycle 0)
  exact ⟨u, hu, hir, hrun.trans (congrArg Host.Outcome.next u.endCycle_eq)⟩

/-! ## The control flags are never read (spec/10_state.md R22)

An update or a meaning that does not read the flags commutes with giving them other values. An update of other fields
alone does so by `rfl`: both sides are the same record. -/

/-- The state with other control flags. -/
def State.withFlags (d : Bool) (c : Nat) (s : State) : State := { s with debugEn := d, clkDiv := c }

@[simp] theorem State.withFlags_vmode (d : Bool) (c : Nat) (s : State) : (s.withFlags d c).vmode = s.vmode := rfl
@[simp] theorem State.withFlags_q (d : Bool) (c : Nat) (s : State) : (s.withFlags d c).q = s.q := rfl
@[simp] theorem State.withFlags_cpuAccess (d : Bool) (c : Nat) (s : State) : (s.withFlags d c).cpuAccess = s.cpuAccess := rfl
@[simp] theorem State.withFlags_ioinHigh (d : Bool) (c : Nat) (s : State) : (s.withFlags d c).ioinHigh = s.ioinHigh := rfl
@[simp] theorem State.withFlags_iooutLow (d : Bool) (c : Nat) (s : State) : (s.withFlags d c).iooutLow = s.iooutLow := rfl
@[simp] theorem State.withFlags_platform (d : Bool) (c : Nat) (s : State) : (s.withFlags d c).platform = s.platform := rfl
@[simp] theorem State.withFlags_load (d : Bool) (c : Nat) (s : State) : (s.withFlags d c).load = s.load := rfl

/-- An update of the state that does not read the control flags. -/
def FlagFree (f : State → State) : Prop :=
  ∀ (d : Bool) (c : Nat) (s : State), f (s.withFlags d c) = (f s).withFlags d c

/-- A meaning that does not read the control flags: with other flags it answers the same, with those flags. -/
def IgnoresFlags (run : State → Result) : Prop :=
  ∀ (d : Bool) (c : Nat) (s : State), run (s.withFlags d c) = mapNext (State.withFlags d c) (run s)

/-- A question whose answer does not depend on the control flags. -/
def FlagBlind {α : Type} (x : State → α) : Prop := ∀ (d : Bool) (c : Nat) (s : State), x (s.withFlags d c) = x s

theorem FlagFree.ite {p : State → Prop} [DecidablePred p] {f g : State → State} (hp : FlagBlind p) (hf : FlagFree f)
    (hg : FlagFree g) : FlagFree fun s => if p s then f s else g s := by
  intro d c s
  simp only [hp d c s]
  split
  · exact hf d c s
  · exact hg d c s

namespace IgnoresFlags
variable {f g : State → Result}

theorem next {f : State → State} (hf : FlagFree f) : IgnoresFlags fun s => .next (f s) :=
  fun d c s => congrArg Host.Outcome.next (hf d c s)

theorem idle : IgnoresFlags fun s => .next s := fun _ _ _ => rfl

theorem ite {p : State → Prop} [DecidablePred p] (hp : FlagBlind p) (hf : IgnoresFlags f) (hg : IgnoresFlags g) :
    IgnoresFlags fun s => if p s then f s else g s := by
  intro d c s
  simp only [hp d c s]
  split
  · exact hf d c s
  · exact hg d c s

/-- An update after a meaning. -/
theorem closeCycle (hf : IgnoresFlags f) : IgnoresFlags fun s => closeCycle (f s) := by
  have hend : FlagFree State.endCycle := .ite (fun _ _ _ => rfl) (fun _ _ _ => rfl) fun _ _ _ => rfl
  intro d c s
  simp only [hf d c s]
  cases f s with
  | next t => exact congrArg Host.Outcome.next (hend d c t)
  | fault | refused => rfl

end IgnoresFlags

/-! ### The CPU -/

theorem resolve_flagBlind (w : Width) (m : ModeFlags) (rd : RegId) (opnd : Word) : FlagBlind (resolve w m rd opnd) :=
  fun _ _ _ => rfl

theorem resolveTarget_flagBlind (t : Word) : FlagBlind (resolveTarget t) := fun _ _ _ => rfl

theorem srcByte_flagBlind (sr sm : Bool) (opnd : Word) : FlagBlind (srcByte sr sm opnd) := fun _ _ _ => rfl

theorem withResolved_flagFree {w : Width} {m : ModeFlags} {rd : RegId} {opnd : Word} {k : Dest → Word → State → State}
    (hk : ∀ dst v, FlagFree (k dst v)) : FlagFree fun s => withResolved w m rd opnd s fun dst v => k dst v s := by
  intro d c s
  simp only [withResolved, resolve_flagBlind w m rd opnd d c s]
  split
  · exact hk _ _ d c s
  · rfl

/-- A value computed from the destination's own, stored back to it. -/
theorem writeDest_flagFree (w : Width) (f : Word → Word) (dst : Dest) :
    FlagFree fun s => s.writeDest w dst (f (s.readDest w dst)) := by
  intro d c s
  cases dst <;> rfl

theorem useLoaded_flagFree (u : LoadUse) (v : State → Word) (hv : FlagBlind v) :
    FlagFree fun s => s.useLoaded u (v s) := by
  intro d c s
  simp only [hv d c s]
  cases u <;> rfl

theorem loadWord_flagFree (a : Word) (u : LoadUse) : FlagFree fun s => s.loadWord a u :=
  .ite (fun _ _ _ => rfl) (useLoaded_flagFree u _ fun _ _ _ => rfl) fun _ _ _ => rfl

theorem storeWord_flagFree (a v : Word) : FlagFree fun s => s.storeWord a v :=
  .ite (fun _ _ _ => rfl) (fun _ _ _ => rfl) fun _ _ _ => rfl

theorem useSource_flagFree (m : ModeFlags) (opnd : Word) (u : LoadUse) (v : Word) :
    FlagFree fun s => s.useSource m opnd u v :=
  .ite (fun _ _ _ => rfl) (loadWord_flagFree opnd u) (useLoaded_flagFree u _ fun _ _ _ => rfl)

theorem moveWord_flagFree (m : ModeFlags) (opnd : Word) (dst : Dest) (v : Word) :
    FlagFree fun s => s.moveWord m opnd dst v := by
  cases dst with
  | reg r => exact useSource_flagFree m opnd _ v
  | mem a => exact storeWord_flagFree a v

theorem compareWord_flagFree (m : ModeFlags) (opnd : Word) (dst : Dest) (v : Word) :
    FlagFree fun s => s.compareWord m opnd dst v := by
  cases dst with
  | reg r => exact useSource_flagFree m opnd _ v
  | mem a => exact loadWord_flagFree a _

theorem execCmp_ignoresFlags (m : ModeFlags) (rd : RegId) (opnd : Word) : IgnoresFlags (execCmp m rd opnd) :=
  fun d c s => IgnoresFlags.next (withResolved_flagFree (compareWord_flagFree m opnd)) d c (s.setCr Config.ccUndef)

theorem execJmp_ignoresFlags (target : Word) : IgnoresFlags (execJmp target) := by
  intro d c s
  simp only [execJmp, resolveTarget_flagBlind target d c s]
  split <;> rfl

theorem branchIf_flagFree (flag : Byte) (target : Word) : FlagFree fun s => s.branchIf flag target := by
  intro d c s
  simp only [State.branchIf, resolveTarget_flagBlind target d c s]
  split
  · rfl
  · have hflag : (s.withFlags d c).hasFlag flag = s.hasFlag flag := rfl
    simp only [hflag]
    split <;> rfl

theorem execMovmr_ignoresFlags (rd : RegId) (rs : Word) : IgnoresFlags (execMovmr rd rs) := by
  intro d c s
  unfold execMovmr
  split <;> rfl

theorem forward_flagFree : FlagFree State.forward := .ite (fun _ _ _ => rfl) (fun _ _ _ => rfl) fun _ _ _ => rfl

theorem exec_ignoresFlags (i : Instr) : IgnoresFlags (exec i) := by
  cases i with
  | mov m rd opnd => exact .next (withResolved_flagFree fun dst v => writeDest_flagFree .byte (fun _ => v) dst)
  | movi m rd opnd => exact .next (withResolved_flagFree (moveWord_flagFree m opnd))
  | add m rd opnd => exact .next (withResolved_flagFree fun dst v => writeDest_flagFree .byte (· + v) dst)
  | sub m rd opnd => exact .next (withResolved_flagFree fun dst v => writeDest_flagFree .byte (· - v) dst)
  | jmp target => exact execJmp_ignoresFlags target
  | cmp m rd opnd => exact execCmp_ignoresFlags m rd opnd
  | breq target | brneq target => exact .next (branchIf_flagFree _ target)
  | movmr rd rs => exact execMovmr_ignoresFlags rd rs
  | dimd | diclr | diwtrt | disetxy | dichar | diputpixel => exact .next forward_flagFree
  | halt | nop | stopc | rst => exact fun _ _ _ => rfl

theorem dispatch_ignoresFlags : IgnoresFlags dispatch := by
  intro d c s
  cases hd : decode s.ir with
  | ok i => rw [dispatch_ok hd, dispatch_ok (s := s.withFlags d c) hd, exec_ignoresFlags i d c s]
  | error e => rw [dispatch_error hd, dispatch_error (s := s.withFlags d c) hd]; rfl

theorem startCycle_ignoresFlags : IgnoresFlags startCycle :=
  .ite (fun _ _ _ => rfl) (fun _ _ _ => rfl) <| .ite (fun _ _ _ => rfl) (fun _ _ _ => rfl) fun d c s =>
    IgnoresFlags.closeCycle dispatch_ignoresFlags d c s.advance.fetch.startDecode

theorem finishAccess_flagFree (h : HalfAccess) : FlagFree fun s => s.finishAccess h := by
  intro d c s
  cases h with
  | load a low u =>
    have value : FlagBlind fun s => s.readByte (a.toNat + 1) ++ low := fun _ _ _ => rfl
    exact useLoaded_flagFree u _ value d c { s with cpuAccess := none }
  | store a high => rfl

theorem cpuTurn_ignoresFlags : IgnoresFlags cpuTurn := by
  refine .ite (fun _ _ _ => rfl) (fun d c s => ?_) .idle
  simp only [State.withFlags_cpuAccess]
  split
  · rename_i h _
    exact congrArg (fun t => Host.Outcome.next t.aggregate) (finishAccess_flagFree h d c s)
  · exact startCycle_ignoresFlags d c s

/-! ### The VDC -/

theorem clear_flagFree : FlagFree State.clear := by
  intro d c s
  simp only [State.clear, State.withFlags_vmode]
  split <;> rfl

theorem vdcDimd_flagFree (sr sm : Bool) (opnd : Word) : FlagFree (vdcDimd sr sm opnd) := by
  intro d c s
  simp only [vdcDimd, srcByte_flagBlind sr sm opnd d c s, State.withFlags_platform]
  split
  · rfl
  · split
    · rfl
    · exact clear_flagFree d c { s with vmode := _ }

theorem vdcDisetxy_flagFree (rx : RegId) (ry : Word) : FlagFree (vdcDisetxy rx ry) := by
  refine .ite (fun _ _ _ => rfl) (fun _ _ _ => rfl) ?_
  cases regIndex ry with
  | none => exact fun _ _ _ => rfl
  | some r => exact .ite (fun _ _ _ => rfl) (fun _ _ _ => rfl) fun _ _ _ => rfl

/-- A write at the cursor, with the check of the cursor before it (spec/46_vdc.md R172, R174). -/
theorem atCursor_flagFree {f : State → State} (hf : FlagFree f) :
    FlagFree fun s => if s.vmode.contains s.cx s.cy = true then f s else s.raiseVdc :=
  .ite (fun _ _ _ => rfl) hf fun _ _ _ => rfl

theorem vdcDichar_flagFree (sr sm : Bool) (opnd : Word) : FlagFree (vdcDichar sr sm opnd) := by
  refine .ite (fun _ _ _ => rfl) (fun _ _ _ => rfl) fun d c s => ?_
  simp only [srcByte_flagBlind sr sm opnd d c s]
  cases srcByte sr sm opnd s with
  | none => rfl
  | some b =>
    have glyph : FlagFree fun s => s.writeBytes (Config.fbStart + s.cursorCell) [b] := fun _ _ _ => rfl
    exact FlagFree.ite (p := (·.vmode = .pixel)) (f := State.raiseVdc) (fun _ _ _ => rfl) (fun _ _ _ => rfl)
      (atCursor_flagFree glyph) d c s

theorem vdcDiputpixel_flagFree (sr sm : Bool) (opnd : Word) : FlagFree (vdcDiputpixel sr sm opnd) := by
  refine .ite (fun _ _ _ => rfl) (fun _ _ _ => rfl) fun d c s => ?_
  simp only [srcByte_flagBlind sr sm opnd d c s]
  cases srcByte sr sm opnd s with
  | none => rfl
  | some b =>
    have pixel : FlagFree fun s => { s with pix := blit s.pix s.cursorCell [b] } := fun _ _ _ => rfl
    exact FlagFree.ite (p := (·.vmode = .pixel)) (g := State.raiseVdc) (fun _ _ _ => rfl) (atCursor_flagFree pixel)
      (fun _ _ _ => rfl) d c s

theorem vdcExec_ignoresFlags (i : Instr) : IgnoresFlags (vdcExec i) := by
  cases i with
  | dimd sr sm opnd => exact .next (vdcDimd_flagFree sr sm opnd)
  | diclr => exact .next (.ite (fun _ _ _ => rfl) (fun _ _ _ => rfl) clear_flagFree)
  | diwtrt => exact .next (.ite (fun _ _ _ => rfl) (fun _ _ _ => rfl) fun _ _ _ => rfl)
  | disetxy rx ry => exact .next (vdcDisetxy_flagFree rx ry)
  | dichar sr sm opnd => exact .next (vdcDichar_flagFree sr sm opnd)
  | diputpixel sr sm opnd => exact .next (vdcDiputpixel_flagFree sr sm opnd)
  | _ => exact fun _ _ _ => rfl

theorem vdcTurn_ignoresFlags : IgnoresFlags vdcTurn := by
  refine .ite (fun _ _ _ => rfl) (fun d c s => ?_) .idle
  simp only [State.withFlags_q]
  split
  · rfl
  · rename_i w rest _
    cases decode w with
    | ok i => exact vdcExec_ignoresFlags i d c { s with q := rest }
    | error e => rfl

/-! ### The other agents -/

theorem storeInput_flagFree (v : Word) : FlagFree fun s => s.storeInput v :=
  .ite (fun _ _ _ => rfl) (fun _ _ _ => rfl) fun _ _ _ => rfl

theorem sampleOutput_flagFree : FlagFree State.sampleOutput :=
  .ite (fun _ _ _ => rfl) (fun _ _ _ => rfl) fun _ _ _ => rfl

theorem ioinTurn_ignoresFlags (value : Option Nat) : IgnoresFlags (ioinTurn value) := by
  refine .ite (fun _ _ _ => rfl) ?_ .idle
  cases value with
  | some n => exact .next (storeInput_flagFree _)
  | none => exact fun _ _ _ => rfl

theorem ioinFinishTurn_ignoresFlags : IgnoresFlags ioinFinishTurn := by
  intro d c s
  simp only [ioinFinishTurn, State.withFlags_ioinHigh]
  split <;> rfl

theorem iooutTurn_ignoresFlags (ok : Bool) : IgnoresFlags (iooutTurn ok) :=
  .ite (fun _ _ _ => rfl) (.ite (fun _ _ _ => rfl) (.next sampleOutput_flagFree) fun _ _ _ => rfl) .idle

theorem iooutFinishTurn_ignoresFlags (ok : Bool) : IgnoresFlags (iooutFinishTurn ok) := by
  intro d c s
  simp only [iooutFinishTurn, State.withFlags_iooutLow]
  split
  · cases ok <;> rfl
  · rfl

/-- The reset procedure keeps the flags and reads neither. -/
theorem resetProcedure_flagFree : FlagFree State.resetProcedure := fun _ _ _ => rfl

theorem endOfRunTurn_ignoresFlags : IgnoresFlags endOfRunTurn :=
  .ite (fun _ _ _ => rfl)
    (.ite (fun _ _ _ => rfl) (fun _ _ _ => rfl)
      (.ite (fun _ _ _ => rfl) (.next resetProcedure_flagFree) fun _ _ _ => rfl))
    .idle

theorem beginLoad_flagFree (body : Option (List Byte)) : FlagFree fun s => s.beginLoad body := by
  intro d c s
  cases body <;> rfl

theorem loadOpenTurn_ignoresFlags (image : List Byte) : IgnoresFlags (loadOpenTurn image) :=
  .ite (fun _ _ _ => rfl)
    (fun d c s => IgnoresFlags.next (beginLoad_flagFree (validBody s.platform.prgMagic image)) d c s) .idle

theorem loadDirectTurn_ignoresFlags (image : List Byte) : IgnoresFlags (loadDirectTurn image) :=
  .ite (fun _ _ _ => rfl) (.next (beginLoad_flagFree _)) .idle

theorem loadCopyTurn_ignoresFlags (k : Nat) : IgnoresFlags (loadCopyTurn k) := by
  refine .ite (fun _ _ _ => rfl) (fun d c s => ?_) .idle
  simp only [State.withFlags_load]
  split
  · rfl
  · rename_i cs _
    cases cs[k]? <;> rfl

theorem runTurn_ignoresFlags {turn : Turn} (h : ∀ d c, turn ≠ .control d c) : IgnoresFlags (runTurn turn) := by
  cases turn with
  | cpu => exact cpuTurn_ignoresFlags
  | vdc => exact vdcTurn_ignoresFlags
  | renderStart | renderSample | renderFinish => exact .ite (fun _ _ _ => rfl) (fun _ _ _ => rfl) .idle
  | ioin v => exact ioinTurn_ignoresFlags v
  | ioinFinish => exact ioinFinishTurn_ignoresFlags
  | ioout ok => exact iooutTurn_ignoresFlags ok
  | iooutFinish ok => exact iooutFinishTurn_ignoresFlags ok
  | release => exact fun _ _ _ => rfl
  | endOfRun => exact endOfRunTurn_ignoresFlags
  | shutdown => exact .ite (fun _ _ _ => rfl) .idle fun _ _ _ => rfl
  | loadOpen image => exact loadOpenTurn_ignoresFlags image
  | loadDirect image => exact loadDirectTurn_ignoresFlags image
  | loadCopy k => exact loadCopyTurn_ignoresFlags k
  | loadDone | bootStatus => exact .ite (fun _ _ _ => rfl) (fun _ _ _ => rfl) .idle
  | control d c => exact absurd rfl (h d c)

/-- Settles O58: whose turn it is does not depend on the flags, and no turn but the HOST's own reads or writes them. -/
theorem controlFlagsAreNeverRead : Obligations.ControlFlagsAreNeverRead := by
  intro s d c h
  exact runTurn_ignoresFlags h d c s.dropTurn

end Sys2Proof.Machine

/-! PROOFS. Memory: reads and writes of RAM, the 16-bit operands of `movi` and `cmp`, the CPU's step as one cycle, who writes
the read-only zone, the render walk's frame, the program loader and the draining of the VDC's queue. -/
namespace Sys2Proof.Machine

/-! ## Reads and writes of RAM (spec/20_memory.md R46, R47, R49) -/

/-- A byte below a value of any width: the little-endian order of R46, once. -/
theorem toNat_append_lowByte {n : Nat} (high : BitVec n) (low : Byte) :
    (high ++ low).toNat = low.toNat + 2 ^ 8 * high.toNat := by
  rw [BitVec.toNat_append, ← Nat.shiftLeft_add_eq_or_of_lt low.isLt, Nat.shiftLeft_eq]
  omega

theorem wordOfBytes_toNat (b0 b1 b2 b3 : Byte) :
    (wordOfBytes b0 b1 b2 b3).toNat =
      b0.toNat + 2 ^ 8 * b1.toNat + 2 ^ 16 * b2.toNat + 2 ^ 24 * b3.toNat := by
  simp only [wordOfBytes, toNat_append_lowByte]
  omega

theorem State.memRead_byte_toNat (s : State) (a : Nat) : (s.memRead .byte a).toNat = (s.readByte a).toNat :=
  BitVec.toNat_setWidth_of_le (by decide)

theorem State.memRead_int_toNat (s : State) (a : Nat) :
    (s.memRead .int a).toNat = (s.readByte a).toNat + 256 * (s.readByte (a + 1)).toNat :=
  toNat_append_byte _ _

/-- Settles O5: a read of several bytes appends them, the one at the lowest address lowest. -/
theorem readsAreLittleEndian : Obligations.ReadsAreLittleEndian := by
  intro s a
  exact ⟨s.memRead_byte_toNat a, s.memRead_int_toNat a, wordOfBytes_toNat _ _ _ _⟩

theorem State.readByte_memWrite_byte_ne (s : State) {a b : Nat} (v : Word) (h : b ≠ a) :
    (s.memWrite .byte a v).readByte b = s.readByte b :=
  s.readByte_memWrite_outside (by simp only [Width.size]; omega)

/-- Settles O6: a write is one `blit` of its one or two bytes into RAM. -/
theorem writesStoreExactlyTheirBytes : Obligations.WritesStoreExactlyTheirBytes := by
  intro s a v
  refine ⟨s.readByte_memWrite_low .byte a v, s.readByte_memWrite_low .int a v, s.readByte_memWrite_high a v,
    fun b hb => s.readByte_memWrite_byte_ne v hb, fun b hlow hhigh => ?_, fun w => rfl⟩
  exact s.readByte_memWrite_outside (by simp only [Width.size]; omega)

theorem lowByte_toNat (v : Word) : (v.extractLsb' 0 8).toNat = v.toNat % 256 := by simp

theorem highByte_toNat (v : Word) : (v.extractLsb' 8 8).toNat = v.toNat / 256 := by
  simp only [BitVec.extractLsb'_toNat, Nat.shiftRight_eq_div_pow]
  omega

theorem umod_256_toNat (v : Word) : (v % 256).toNat = v.toNat % 256 := BitVec.toNat_umod

theorem udiv_256_toNat (v : Word) : (v / 256).toNat = v.toNat / 256 := BitVec.toNat_udiv

/-- Settles O7: both orders go through the bytes at `a` and `a + 1`, which hold the value's remainder and quotient by 256. -/
theorem mixedWidthAccessesSeePlainBytes : Obligations.MixedWidthAccessesSeePlainBytes := by
  intro s a v
  refine ⟨?_, ?_, ?_⟩ <;> apply BitVec.eq_of_toNat_eq
  · rw [State.memRead_byte_toNat, State.readByte_memWrite_low, lowByte_toNat, umod_256_toNat]
  · rw [State.memRead_byte_toNat, State.readByte_memWrite_high, highByte_toNat, udiv_256_toNat]
  · rw [State.memRead_int_toNat, State.readByte_memWrite_byte_ne _ _ (Nat.ne_of_lt (Nat.lt_succ_self a)),
      State.readByte_memWrite_low, State.readByte_memWrite_low, lowByte_toNat, lowByte_toNat, umod_256_toNat,
      udiv_256_toNat]
    have := v.isLt
    omega

/-! ## Operand forms (spec/30_encoding.md R75, 40_cpu_cycle.md R96) -/

section
variable {w : Width} {m : ModeFlags} {rd : RegId} {opnd : Word} {s : State}

theorem RegForm.raw_lt {n raw : Nat} (h : RegForm m opnd n s raw) : raw < 65536 := by
  obtain ⟨-, -, ⟨-, hr, rfl⟩ | ⟨-, -, -, rfl⟩ | ⟨-, -, -, -, rfl⟩ | ⟨-, -, rfl⟩⟩ := h
  · exact BitVec.isLt _
  · have := (s.readByte opnd.toNat).isLt
    omega
  · have := (s.readByte opnd.toNat).isLt
    have := (s.readByte (opnd.toNat + 1)).isLt
    omega
  · exact BitVec.isLt _

/-- A source in memory is the read of the operand's width. -/
theorem RegForm.memRead_eq {raw : Nat} (h : RegForm m opnd w.size s raw) (hm : SourceInMemory m) :
    opnd.toNat + w.size ≤ 65536 ∧ s.memRead w opnd.toNat = BitVec.ofNat 16 raw := by
  obtain ⟨hsr, hsm⟩ := hm
  obtain ⟨-, -, ⟨h, -⟩ | ⟨-, -, hn, rfl⟩ | ⟨-, -, hn, hb, rfl⟩ | ⟨-, h, -⟩⟩ := h
  · simp [hsr] at h
  · cases w with
    | byte =>
      have := opnd.isLt
      exact ⟨by simp only [Width.size]; omega, by rw [← s.memRead_byte_toNat, BitVec.ofNat_toNat, BitVec.setWidth_eq]⟩
    | int => cases hn
  · cases w with
    | byte => cases hn
    | int => exact ⟨hb, by rw [← s.memRead_int_toNat, BitVec.ofNat_toNat, BitVec.setWidth_eq]⟩
  · simp [hsm] at h

theorem RegForm.resolveSource_eq {raw : Nat} (h : RegForm m opnd w.size s raw) :
    resolveSource w m opnd s = .ok (BitVec.ofNat 16 raw) := by
  by_cases hm : SourceInMemory m
  · obtain ⟨hb, hv⟩ := h.memRead_eq hm
    obtain ⟨hsr, hsm⟩ := hm
    simp [resolveSource, hsr, hsm, (admitted_iff _ _).2 hb, hv]
  · obtain ⟨-, -, ⟨hsr, hr, rfl⟩ | ⟨hsr, hsm, -⟩ | ⟨hsr, hsm, -⟩ | ⟨hsr, hsm, rfl⟩⟩ := h
    · simp [resolveSource, hsr, regIndex_of_lt hr]
    · exact absurd ⟨hsr, hsm⟩ hm
    · exact absurd ⟨hsr, hsm⟩ hm
    · simp [resolveSource, hsr, hsm]

theorem RegForm.withResolved_eq {raw : Nat} (h : RegForm m opnd w.size s raw) (k : Dest → Word → State) :
    withResolved w m rd opnd s k = k (.reg rd) (w.mask (BitVec.ofNat 16 raw)) := by
  have hv := h.resolveSource_eq
  obtain ⟨hdr, hdm, -⟩ := h
  simp [withResolved, resolve, hdr, hdm, hv]

theorem MemForm.withResolved_eq (h : MemForm m opnd w.size) (k : Dest → Word → State) :
    withResolved w m rd opnd s k = k (.mem opnd) (w.mask (s.reg rd)) := by
  obtain ⟨hdr, hdm, ha⟩ := h
  simp [withResolved, resolve, hdr, hdm, (storeAdmitted_iff w opnd).2 ha]

/-- A form that faults makes `Resolve` raise the category whose bit it names. -/
theorem FormFaults.resolve_eq {f : Byte} (h : FormFaults m opnd w.size f) :
    ∃ kind : ExcKind, kind.bit = f ∧ resolve w m rd opnd s = .error kind := by
  rcases h with ⟨rfl, hd⟩ | ⟨rfl, hdr, hdm, hsr, hr⟩ | ⟨rfl, hdr, hdm, hsr, hsm, hb⟩ | ⟨rfl, hdr, hdm, ha⟩
  · exact ⟨.instr, rfl, if_pos hd⟩
  · exact ⟨.reg, rfl, by simp [resolve, resolveSource, hdr, hdm, hsr, regIndex_of_gt hr]⟩
  · have hb : admitted opnd.toNat w.size = false := by simpa [admitted] using hb
    exact ⟨.mem, rfl, by simp [resolve, resolveSource, hdr, hdm, hsr, hsm, hb]⟩
  · have ha : ¬storeAdmitted w opnd = true := by rw [storeAdmitted_iff]; omega
    exact ⟨.mem, rfl, by simp [resolve, hdr, hdm, ha]⟩

theorem FormFaults.withResolved_eq {f : Byte} (h : FormFaults m opnd w.size f) (k : Dest → Word → State) :
    withResolved w m rd opnd s k = { s with cpuExc := s.cpuExc ||| f } := by
  obtain ⟨kind, rfl, he⟩ := h.resolve_eq (rd := rd) (s := s)
  rw [withResolved, he]
  rfl

/-! ### 16-bit operands (spec/20_memory.md R52) -/

/-- A 16-bit source used at once: where it is in memory, because the access is indivisible. -/
theorem RegForm.useSource_whole {raw : Nat} (h : RegForm m opnd 2 s raw)
    (hp : s.platform.atomic16 = true ∨ ¬SourceInMemory m) (u : LoadUse) :
    s.useSource m opnd u (BitVec.ofNat 16 raw) = s.useLoaded u (BitVec.ofNat 16 raw) := by
  unfold State.useSource
  split
  · rename_i hm
    have hm := (sourceInMemory_iff m).1 hm
    have hp := hp.resolve_right (not_not_intro hm)
    obtain ⟨-, hv⟩ := RegForm.memRead_eq (w := .int) h hm
    rw [State.loadWord, if_pos hp, hv]
  · rfl

theorem State.loadWord_whole (hp : s.platform.atomic16 = true) (a : Word) (u : LoadUse) :
    s.loadWord a u = s.useLoaded u (s.memRead .int a.toNat) := if_pos hp

theorem State.loadWord_half (hp : s.platform.atomic16 = false) (a : Word) (u : LoadUse) :
    s.loadWord a u = { s with cpuAccess := some (.load a (s.readByte a.toNat) u) } := by
  simp [State.loadWord, hp]

theorem State.useSource_half (hp : s.platform.atomic16 = false) (hm : SourceInMemory m) (u : LoadUse) (v : Word) :
    s.useSource m opnd u v = { s with cpuAccess := some (.load opnd (s.readByte opnd.toNat) u) } := by
  rw [State.useSource, if_pos ((sourceInMemory_iff m).2 hm), State.loadWord_half hp]

/-! ### movi (spec/42_data_movement.md R122) -/

theorem RegForm.execMovi_eq {raw : Nat} (h : RegForm m opnd 2 s raw) :
    exec (.movi m rd opnd) s = .next (s.useSource m opnd (.register rd) (BitVec.ofNat 16 raw)) :=
  congrArg Host.Outcome.next (RegForm.withResolved_eq (w := .int) h _)

theorem MemForm.execMovi_eq (h : MemForm m opnd 2) : exec (.movi m rd opnd) s = .next (s.storeWord opnd (s.reg rd)) :=
  congrArg Host.Outcome.next (MemForm.withResolved_eq (w := .int) h _)

theorem FormFaults.execMovi_eq {f : Byte} (h : FormFaults m opnd 2 f) :
    exec (.movi m rd opnd) s = .next { s with cpuExc := s.cpuExc ||| f } :=
  congrArg Host.Outcome.next (FormFaults.withResolved_eq (w := .int) h _)

theorem State.storeWord_whole (hp : s.platform.atomic16 = true) (a v : Word) :
    s.storeWord a v = s.writeBytes a.toNat [v.extractLsb' 0 8, v.extractLsb' 8 8] := if_pos hp

theorem State.storeWord_half (hp : s.platform.atomic16 = false) (a v : Word) :
    s.storeWord a v =
      { s.writeBytes a.toNat [v.extractLsb' 0 8] with cpuAccess := some (.store a (v.extractLsb' 8 8)) } := by
  simp [State.storeWord, hp]

/-- The 16-bit value that two bytes make. -/
theorem append_byte_eq_ofNat (high low : Byte) : (high ++ low : Word) = BitVec.ofNat 16 (low.toNat + 256 * high.toNat) := by
  rw [← toNat_append_byte, BitVec.ofNat_toNat, BitVec.setWidth_eq]

end

/-- Settles O9: `movi` is `useSource` of a register destination, `storeWord` of a memory one, or the raise of `Resolve`;
each 16-bit access is whole or half by `ATOMIC16`. -/
theorem moviMovesSixteenBits : Obligations.MoviMovesSixteenBits := by
  refine ⟨fun w ho => decode_of_opcode (i := .movi (wordFlags w) (wordRd w) (wordOpnd w)) ho,
    fun m rd opnd s => ⟨?_, ?_, ?_, ?_, ?_⟩, fun s a => ⟨?_, fun high => rfl⟩⟩
  · intro raw h hp
    rw [h.execMovi_eq, h.useSource_whole hp, State.useLoaded_register]
  · intro raw h hp hm
    rw [h.execMovi_eq, State.useSource_half hp hm]
  · intro h hp
    rw [h.execMovi_eq, State.storeWord_whole hp]
  · intro h hp
    rw [h.execMovi_eq, State.storeWord_half hp]
  · exact fun f h => h.execMovi_eq
  · intro low rd
    rw [← append_byte_eq_ofNat]
    rfl

/-! ### cmp (spec/43_arithmetic_compare.md R134) -/

theorem flagsOfDelta_pos {delta : Int} (h : 0 < delta) : flagsOfDelta delta = 0x12 := by
  rw [flagsOfDelta, if_neg (by omega), if_pos h]
  rfl

theorem flagsOfDelta_neg {delta : Int} (h : delta < 0) : flagsOfDelta delta = 0x22 := by
  rw [flagsOfDelta, if_neg (by omega), if_neg (by omega)]
  rfl

/-- The flags by the sign of the difference, which `CMP_SWAP` turns round. -/
theorem flagsOfDelta_cmpDelta {swap : Bool} {v dv : Word} {c : Byte} (h : CompareFlags swap v.toNat dv.toNat c) :
    flagsOfDelta (cmpDelta swap v dv) = c := by
  rcases h with ⟨he, rfl⟩ | ⟨rfl, hl, rfl⟩ | ⟨rfl, hl, rfl⟩ | ⟨rfl, hl, rfl⟩ | ⟨rfl, hl, rfl⟩
  · simp [cmpDelta, flagsOfDelta, he]
  · exact flagsOfDelta_pos (Int.sub_pos_of_lt (Int.ofNat_lt.2 hl))
  · exact flagsOfDelta_neg (Int.sub_neg_of_lt (Int.ofNat_lt.2 hl))
  · exact flagsOfDelta_pos (Int.sub_pos_of_lt (Int.ofNat_lt.2 hl))
  · exact flagsOfDelta_neg (Int.sub_neg_of_lt (Int.ofNat_lt.2 hl))

section
variable {m : ModeFlags} {rd : RegId} {opnd : Word} {s : State}

theorem State.setCompare_eq {v dv : Word} {c : Byte} (h : CompareFlags s.platform.cmpSwap v.toNat dv.toNat c) :
    s.setCompare v dv = s.setCr c := congrArg s.setCr (flagsOfDelta_cmpDelta h)

theorem RegForm.execCmp_eq {raw : Nat} (h : RegForm m opnd 2 s raw) :
    exec (.cmp m rd opnd) s =
      .next ((s.setCr 0x40).useSource m opnd (.compareSource rd) (BitVec.ofNat 16 raw)) :=
  congrArg Host.Outcome.next (RegForm.withResolved_eq (w := .int) (s := s.setCr 0x40) h _)

theorem MemForm.execCmp_eq (h : MemForm m opnd 2) :
    exec (.cmp m rd opnd) s = .next ((s.setCr 0x40).loadWord opnd (.compareDest (s.reg rd))) :=
  congrArg Host.Outcome.next (MemForm.withResolved_eq (w := .int) (s := s.setCr 0x40) h _)

theorem FormFaults.execCmp_eq {f : Byte} (h : FormFaults m opnd 2 f) :
    exec (.cmp m rd opnd) s = .next { s with cr := 0x40, cpuExc := s.cpuExc ||| f } :=
  congrArg Host.Outcome.next (FormFaults.withResolved_eq (w := .int) (s := s.setCr 0x40) h _)

end

/-- Settles O13: `cmp` sets `cr` to `CC_UNDEF` and then from the two values, at once or with the second byte of a memory
operand. -/
theorem cmpSetsOnlyCr : Obligations.CmpSetsOnlyCr := by
  refine ⟨fun w ho => decode_of_opcode (i := .cmp (wordFlags w) (wordRd w) (wordOpnd w)) ho,
    fun m rd opnd s => ⟨?_, ?_, ?_, ?_, ?_⟩, fun s a low c => ⟨?_, ?_⟩⟩
  · intro raw c h hp hc
    have hraw : (BitVec.ofNat 16 raw).toNat = raw := by rw [BitVec.toNat_ofNat, Nat.mod_eq_of_lt h.raw_lt]
    rw [h.execCmp_eq, RegForm.useSource_whole (s := s.setCr 0x40) h hp, State.useLoaded_compareSource,
      State.setCompare_eq (c := c) (hraw.symm ▸ hc)]
    rfl
  · intro c h hp hc
    rw [h.execCmp_eq, State.loadWord_whole (s := s.setCr 0x40) hp, State.useLoaded_compareDest,
      State.setCompare_eq (c := c) (by rw [State.memRead_int_toNat]; exact hc)]
    rfl
  · intro raw h hp hm
    rw [h.execCmp_eq, State.useSource_half (s := s.setCr 0x40) hp hm]
    rfl
  · intro h hp
    rw [h.execCmp_eq, State.loadWord_half (s := s.setCr 0x40) hp]
    rfl
  · exact fun f h => h.execCmp_eq
  · intro rd hc
    exact State.setCompare_eq (s := { s with cpuAccess := none }) (by rw [toNat_append_byte]; exact hc)
  · intro v hc
    exact State.setCompare_eq (s := { s with cpuAccess := none }) (by rw [toNat_append_byte]; exact hc)

/-! ## The CPU's step (spec/40_cpu_cycle.md R90 to R95) -/

theorem dropTurn_runs {s : State} (hhold : s.resetHold = false) (hpanic : s.panic = false) :
    s.dropTurn.running = true := s.running_iff.2 ⟨hhold, hpanic⟩

theorem cpuTurn_finish {s : State} {a : HalfAccess} (hr : s.running = true) (ha : s.cpuAccess = some a) :
    cpuTurn s = .next (s.finishAccess a).aggregated := by
  rw [cpuTurn, if_pos hr, ha]
  rfl

/-- The end of a cycle whose word has an unrecognized opcode: InstructionFault is set, so the machine stops. -/
theorem aggregate_unrecognized {s : State} (he : s.exc = 0) :
    (s.startDecode.raise .instr).aggregate =
      { s with cpuExc := 0x01, exc := 0x01 ||| s.vdcExc ||| s.ioExc ||| s.extExc, panic := true } := by
  have hraise : s.startDecode.raise .instr = { s with cpuExc := 0x01 } := by
    simp [State.raise, State.startDecode, ExcKind.bit]
  rw [hraise]
  simp [State.aggregate, State.faultsPresent, he]

/-- Settles O26: a cycle that fetches dispatches the word and closes; the rest of one makes the second byte and closes. -/
theorem stepRunsDecodedInstruction : Obligations.StepRunsDecodedInstruction := by
  intro s hhold hpanic hturn
  have hr := dropTurn_runs hhold hpanic
  have fetched (hpc : (s.pc + 4).toNat ≤ 65532) (ha : s.cpuAccess = none) (he : s.exc = 0) {u : State}
      (hu : dispatch s.dropTurn.advance.fetch.startDecode = .next u) : step s = .next u.endCycle :=
    (step_eq hturn).trans (cpuTurn_fetched hr ha hpc he hu)
  refine ⟨fun ha hpc he => ⟨fun i hd => ?_, fun e hd => ?_⟩, fun h ha => (step_eq hturn).trans (cpuTurn_finish hr ha)⟩
  · obtain ⟨t, ht, -⟩ := exec_effect i s.dropTurn.advance.fetch.startDecode
    have hstep := fetched hpc ha he ((dispatch_ok (s := s.dropTurn.advance.fetch.startDecode) hd).trans ht)
    refine ⟨t, ht, fun hclosed => ?_, fun hopen => ?_⟩
    · rw [hstep, State.endCycle_eq, if_pos hclosed]
    · rw [hstep, State.endCycle_open hopen]
  · have hstep := fetched hpc ha he (dispatch_error (s := s.dropTurn.advance.fetch.startDecode) hd)
    have hclosed := State.endCycle_closed (s := s.dropTurn.advance.fetch.startDecode.raise .instr) ha
    rw [hstep, hclosed, aggregate_unrecognized (s := s.dropTurn.advance.fetch) he]
    rfl

section
variable {s t : State}

/-- An access comes to be in progress only with `ATOMIC16` false, and then no fault is raised and nothing stops. -/
theorem CpuEffect.cpuAccess_cases {i : Instr} (h : CpuEffect i s t) :
    t.cpuAccess = s.cpuAccess ∨ (s.platform.atomic16 = false ∧ t.cpuExc = s.cpuExc ∧ t.panic = s.panic) := by
  cases h with
  | loadHalf _ _ hp _ => exact .inr ⟨hp, rfl, rfl⟩
  | storeHalf _ _ _ _ hp _ _ => exact .inr ⟨hp, rfl, rfl⟩
  | flagsHalf _ _ hp _ => exact .inr ⟨hp, rfl, rfl⟩
  | _ => exact .inl rfl

/-- The fault fields that an agent other than the CPU writes, and the aggregated one, are as before. -/
structure State.SameSharedFaults (s t : State) : Prop where
  exc : t.exc = s.exc
  vdcExc : t.vdcExc = s.vdcExc
  ioExc : t.ioExc = s.ioExc
  extExc : t.extExc = s.extExc

theorem State.SameBeyondCpu.sharedFaults (h : s.SameBeyondCpu t) : s.SameSharedFaults t :=
  ⟨h.exc, h.vdcExc, h.ioExc, h.extExc⟩

/-- What a step of the CPU from `s` to `t` does to the fault fields: it ends a cycle and aggregates them, or it leaves an
access in progress and none of them has changed. -/
structure State.TakesFaults (s t : State) : Prop where
  vdcExc : t.vdcExc = s.vdcExc
  ioExc : t.ioExc = s.ioExc
  extExc : t.extExc = s.extExc
  closed : t.cpuAccess = none →
    t.exc = s.exc ||| t.cpuExc ||| s.vdcExc ||| s.ioExc ||| s.extExc ∧ (t.exc ≠ 0 → t.panic = true)
  opened : t.cpuAccess ≠ none →
    s.cpuAccess = none ∧ s.platform.atomic16 = false ∧ t.exc = s.exc ∧ t.cpuExc = 0 ∧ t.panic = false

/-- The end of a cycle (R95), once no access is in progress. -/
theorem State.SameSharedFaults.takesFaults (h : s.SameSharedFaults t) (ha : t.cpuAccess = none) :
    s.TakesFaults t.aggregate where
  vdcExc := h.vdcExc
  ioExc := h.ioExc
  extExc := h.extExc
  closed _ := by
    constructor
    · simp [State.faultsPresent, h.exc, h.vdcExc, h.ioExc, h.extExc]
    · intro hne
      simpa using Or.inr hne
  opened hopen := absurd ha hopen

theorem CycleEffect.takesFaults (h : CycleEffect s t) (hpanic : s.panic = false) : s.TakesFaults t := by
  cases h with
  | finished a ha =>
    have effect := finishAccess_effect ha
    exact effect.sameBeyondCpu.sharedFaults.takesFaults effect.cpuAccess
  | stray ha | pending ha | unrecognized ha => exact State.SameSharedFaults.takesFaults ⟨rfl, rfl, rfl, rfl⟩ ha
  | ran ha _ _ i _ u hu =>
    have effect := exec_inv hu
    have shared : s.SameSharedFaults u := { effect.sameBeyondCpu.sharedFaults with }
    by_cases hu : u.cpuAccess = none
    · rw [State.endCycle_closed hu]
      exact shared.takesFaults hu
    · rw [State.endCycle_open hu]
      obtain ⟨hp, hcpu, hrun⟩ := effect.cpuAccess_cases.resolve_left fun h => hu (h.trans ha)
      exact ⟨shared.vdcExc, shared.ioExc, shared.extExc, fun h => absurd h hu,
        fun _ => ⟨ha, hp, shared.exc, hcpu, hrun.trans hpanic⟩⟩

theorem State.endCycle_pc (s : State) : s.endCycle.pc = s.pc := by
  unfold State.endCycle
  split <;> rfl

theorem State.endCycle_cpuExc (s : State) : s.endCycle.cpuExc = s.cpuExc := by
  unfold State.endCycle
  split <;> rfl

/-- A fault of the CPU leaves `pc` at the word that raised it (R212): an instruction that raises one does nothing else. -/
theorem CycleEffect.pc_of_fault (h : CycleEffect s t) (ha : s.cpuAccess = none) (hf : t.cpuExc ≠ 0) :
    t.pc = s.pc + 4 := by
  cases h with
  | finished a ha' => simp [ha] at ha'
  | stray | pending | unrecognized => rfl
  | ran _ _ _ i _ u hu =>
    rw [State.endCycle_cpuExc] at hf
    rw [State.endCycle_pc]
    rcases (exec_inv hu).cpuExc_cases with h | ⟨f, rfl | ⟨-, rfl⟩⟩
    · exact absurd h hf
    · rfl
    · rfl

end

/-- Settles O29: every cycle's effect ends in the aggregation, unless it opened an access and then touched no fault field. -/
theorem everyCycleAggregatesFaults : Obligations.EveryCycleAggregatesFaults := by
  intro s hhold hpanic hturn
  obtain ⟨t, ht, effect⟩ := cpuTurn_effect (dropTurn_runs hhold hpanic)
  have faults := effect.takesFaults hpanic
  exact ⟨t, (step_eq hturn).trans ht, faults.vdcExc, faults.ioExc, faults.extExc, faults.closed, faults.opened,
    effect.pc_of_fault⟩

/-! ## The read-only zone (spec/20_memory.md R42, R43) -/

section
variable {s t : State} {a : Nat}

/-- The second byte of a store lies above the first, which was checked against `RW_START`. -/
theorem FinishEffect.readOnlyZone (h : FinishEffect s t) (hs : s.Inv) (ha : a < 0xFE) :
    t.readByte a = s.readByte a := by
  cases h with
  | reg | compare => rfl
  | store b high hb =>
    obtain ⟨-, -, hstart, -⟩ := hs.cpuAccessTorn _ hb
    exact State.readByte_writeBytes_outside _ (.inl (by omega))

theorem State.endCycle_mem (s : State) : s.endCycle.mem = s.mem := by
  unfold State.endCycle
  split <;> rfl

theorem CycleEffect.readOnlyZone (h : CycleEffect s t) (hs : s.Inv) (ha : a < 0xFE) :
    t.readByte a = s.readByte a := by
  cases h with
  | finished b hb => exact (finishAccess_effect hb).readOnlyZone hs ha
  | stray | pending | unrecognized => rfl
  | ran _ _ _ i _ u hu => exact (State.readByte_congr u.endCycle_mem a).trans ((exec_inv hu).readOnlyZone ha)

/-- `Clear()` writes cells of the framebuffer only. -/
theorem State.clear_readOnlyZone (s : State) (ha : a < 0xFE) : s.clear.readByte a = s.readByte a := by
  have below (n : Nat) (v : Byte) : readCell (fillCells s.mem Config.fbStart n v) a = readCell s.mem a := by
    rw [readCell_fillCells, if_neg (by simp only [Config.fbStart]; omega)]
  unfold State.clear
  split
  · rfl
  · exact below _ _
  · exact below _ _
  · rfl

theorem VdcEffect.readOnlyZone (h : VdcEffect s t) (ha : a < 0xFE) : t.readByte a = s.readByte a := by
  cases h with
  | mode v => exact State.clear_readOnlyZone _ ha
  | clear => exact s.clear_readOnlyZone ha
  | glyph i => exact s.readByte_writeBytes_outside (.inl (by omega))
  | _ => rfl

/-- IOIN's store, whole or half, writes `IO_IN`. -/
theorem State.storeInput_outside (s : State) (v : Word) (h : a ≠ 0xFC ∧ a ≠ 0xFD) :
    (s.storeInput v).readByte a = s.readByte a := by
  rcases s.storeInput_cases v with ⟨-, e⟩ | ⟨-, e⟩ <;> rw [e]
  · exact s.readByte_memWrite_outside (by simp only [Width.size]; omega)
  · exact s.readByte_writeBytes_outside (vs := [_]) (by simp only [List.length_singleton]; omega)

theorem State.writeByte_outside (s : State) {b : Nat} (v : Byte) (h : a ≠ b) :
    (s.writeBytes b [v]).readByte a = s.readByte a :=
  s.readByte_writeBytes_outside (by simp only [List.length_singleton]; omega)

theorem State.beginLoad_mem (s : State) (body : Option (List Byte)) : (s.beginLoad body).mem = s.mem := by
  cases body <;> rfl

theorem State.sampleOutput_mem (s : State) : s.sampleOutput.mem = s.mem := by
  rcases s.sampleOutput_cases with ⟨-, h⟩ | ⟨-, h⟩ <;> simp [h]

/-- The turns that may change the byte at `a` below `RW_START`: the soft reboot's, the HOST's at its own two bytes, IOIN's at
`IO_IN`. -/
def Turn.WritesReadOnly (turn : Turn) (a : Nat) : Prop :=
  turn = .endOfRun ∨ (a = 0x0000 ∧ ∃ v, turn = .bootStatus v) ∨ (a = 0x0001 ∧ turn = .loadDone) ∨
    ((a = 0x00FC ∨ a = 0x00FD) ∧ ∃ n, turn = .ioin (some n)) ∨ (a = 0x00FD ∧ turn = .ioinFinish)

theorem TurnEffect.readOnlyZone {turn : Turn} (h : TurnEffect s turn t) (hs : s.Inv) (ha : a < 0xFE) :
    t.readByte a = s.readByte a ∨ turn.WritesReadOnly a := by
  unfold Turn.WritesReadOnly
  cases h with
  | cpu _ h => exact .inl (h.readOnlyZone hs ha)
  | vdc _ w rest _ h => exact .inl (h.readOnlyZone ha)
  | ioin _ n =>
    by_cases h : a = 0xFC ∨ a = 0xFD
    · exact .inr (.inr (.inr (.inr (.inl ⟨h, n, rfl⟩))))
    · exact .inl (s.storeInput_outside _ (not_or.1 h))
  | ioinFinish high =>
    by_cases h : a = 0xFD
    · exact .inr (.inr (.inr (.inr (.inr ⟨h, rfl⟩))))
    · exact .inl (State.writeByte_outside _ high h)
  | ioout => exact .inl (State.readByte_congr s.sampleOutput_mem a)
  | reboot => exact .inr (.inl rfl)
  | loadOpen _ body | loadDirect _ body => exact .inl (State.readByte_congr (s.beginLoad_mem body) a)
  | loadCopy k cs hl c hc =>
    obtain ⟨hstart, -⟩ := hs.loadInRegion cs hl c hc
    exact .inl (s.writeByte_outside c.2 (by simp only [Config.prgStart] at hstart; omega))
  | loadDone =>
    by_cases h : a = 1
    · exact .inr (.inr (.inr (.inl ⟨h, rfl⟩)))
    · exact .inl (s.writeByte_outside 1 h)
  | bootStatus v =>
    by_cases h : a = 0
    · exact .inr (.inr (.inl ⟨h, v, rfl⟩))
    · exact .inl (s.writeByte_outside v h)
  | _ => exact .inl rfl

end

/-- Settles O31: the CPU's turn is none of the turns that write the zone. -/
theorem cpuNeverWritesReadOnlyZone : Obligations.CpuNeverWritesReadOnlyZone := by
  intro s t hs hturn h a ha
  have effect : TurnEffect s.dropTurn .cpu t := hturn ▸ step_inv h
  exact (effect.readOnlyZone hs.dropTurn ha).resolve_right (by simp [Turn.WritesReadOnly])

/-- Settles O55: by the effect of the step's turn. -/
theorem readOnlyZoneWriters : Obligations.ReadOnlyZoneWriters := by
  intro s t hs h a ha hne
  exact ((step_inv h).readOnlyZone hs.dropTurn ha).resolve_left hne

/-! ## RENDER's walk (spec/46_vdc.md R180, R181) -/

section
variable {s : State}

theorem renderStartTurn_enabled (hr : s.running = true) (hv : s.vmode ≠ .off) (hw : s.retrace = false) :
    renderStartTurn s = .next { s with retrace := true, samples := [] } := by
  simp [renderStartTurn, hr, hv, hw]

theorem renderFinishTurn_walk (hw : s.retrace = true) :
    renderFinishTurn s = .next { s with
      retrace := false
      samples := []
      sink := s.sink ++ [{ mode := s.vmode, cells := s.vmode.frameCells.map s.cellShown }] } := if_pos hw

/-- A cell the walk has not read shows what it holds now. -/
theorem State.cellShown_unread {c : FbCell} (h : ∀ p ∈ s.samples, p.1 ≠ c) : s.cellShown c = s.cellNow c := by
  have hnone : s.samples.find? (fun p => decide (p.1 = c)) = none := by simpa using h
  simp only [State.cellShown, hnone]

/-- A cell the walk has read shows its latest reading. -/
theorem State.cellShown_read {c : FbCell} {b : Byte} {older newer : List (FbCell × Byte)}
    (hs : s.samples = newer ++ (c, b) :: older) (h : ∀ p ∈ newer, p.1 ≠ c) : s.cellShown c = b := by
  have hnone : newer.find? (fun p => decide (p.1 = c)) = none := by simpa using h
  have hfound : s.samples.find? (fun p => decide (p.1 = c)) = some (c, b) := by simp [hs, List.find?_append, hnone]
  simp only [State.cellShown, hfound]

theorem ModeSize.eq {v : VMode} {h rows : Nat} (hm : ModeSize v h rows) : v.cols = h ∧ v.rows = rows := by
  rcases hm with (⟨rfl, rfl, rfl⟩ | ⟨rfl, rfl, rfl⟩) | ⟨rfl, rfl, rfl⟩ <;> exact ⟨rfl, rfl⟩

theorem VMode.frameCells_length (v : VMode) : v.frameCells.length = v.cols * v.rows := by simp [VMode.frameCells]

theorem VMode.frameCells_getElem? (v : VMode) {i : Nat} (hi : i < v.cols * v.rows) :
    v.frameCells[i]? = some (if v = .pixel then .pixel i else .text i) := by
  simp [VMode.frameCells, hi]

end

/-- Settles O41: a start and a reading are their turns; the frame's cells are those of the mode in force, each as the walk
shows it. -/
theorem renderEmitsTheFrame : Obligations.RenderEmitsTheFrame := by
  refine ⟨fun s hhold hpanic hturn hv hw => ?_, fun s c hturn => ?_, fun s i => ⟨rfl, rfl⟩, fun s hturn hw => ?_⟩
  · exact (step_eq hturn).trans (renderStartTurn_enabled (dropTurn_runs hhold hpanic) hv hw)
  · rw [step_eq hturn]
    rcases renderSampleTurn_cases c s.dropTurn with ⟨hw, hc, h⟩ | ⟨hoff, h⟩
    · exact ⟨fun _ _ => h, fun hoff => (hoff.elim (fun h => by simp [h] at hw) fun h => h hc).elim⟩
    · exact ⟨fun hw hc => (hoff.elim (fun h => by simp [hw] at h) fun h => h hc).elim, fun _ => h⟩
  · refine ⟨⟨s.vmode, s.vmode.frameCells.map s.cellShown⟩, rfl, fun h rows hm => ?_,
      (step_eq hturn).trans (renderFinishTurn_walk hw), ?_⟩
    · obtain ⟨rfl, rfl⟩ := hm.eq
      simp [VMode.frameCells_length]
    · intro i h rows c hm hi hc
      obtain ⟨rfl, rfl⟩ := hm.eq
      have hcell : (s.vmode.frameCells.map s.cellShown)[i]? = some (s.cellShown c) := by
        rw [List.getElem?_map, VMode.frameCells_getElem? _ hi, ← hc]
        rfl
      exact ⟨fun h => hcell.trans (congrArg some (State.cellShown_unread h)),
        fun b older newer hs h => hcell.trans (congrArg some (State.cellShown_read hs h))⟩

/-! ## The program loader (spec/70_reset_and_hazards.md R238) -/

theorem headerWord_eq {image rest : List Byte} {k : Nat} {b0 b1 b2 b3 : Byte}
    (h : image.drop k = b0 :: b1 :: b2 :: b3 :: rest) : headerWord image k = some (wordOfBytes b0 b1 b2 b3) := by
  rw [headerWord, h]

/-- An image is valid when the words of its header are the magic and the length of what follows the header. -/
theorem validBody_eq {magic size : DWord} {image body : List Byte} (hmagic : headerWord image 0 = some magic)
    (hsize : headerWord image 12 = some size) (hbody : image.drop 16 = body) (hlen : size.toNat = body.length)
    (hcap : body.length ≤ 49152) : validBody magic image = some body := by
  simp only [validBody, hmagic, hsize, hbody, hlen, List.take_length]
  exact if_pos ⟨trivial, hcap, le_refl _⟩

theorem validBody_of_header {magic : DWord} {m0 m1 m2 m3 z0 z1 z2 z3 : Byte} {reserved body : List Byte}
    (hres : reserved.length = 8) (hmagic : wordOfBytes m0 m1 m2 m3 = magic)
    (hsize : (wordOfBytes z0 z1 z2 z3).toNat = body.length) (hcap : body.length ≤ 49152) :
    validBody magic (m0 :: m1 :: m2 :: m3 :: reserved ++ z0 :: z1 :: z2 :: z3 :: body) = some body := by
  have hdrop : (m0 :: m1 :: m2 :: m3 :: reserved ++ z0 :: z1 :: z2 :: z3 :: body).drop 12 =
      z0 :: z1 :: z2 :: z3 :: body := List.drop_left' (by simp [hres])
  refine validBody_eq (hmagic ▸ headerWord_eq rfl) (headerWord_eq hdrop) ?_ hsize hcap
  rw [show 16 = 12 + 4 from rfl, ← List.drop_drop, hdrop]
  rfl

theorem numbered_eq_zipIdx (base : Nat) (vs : List Byte) : numbered base vs = (vs.zipIdx base).map Prod.swap := by
  induction vs generalizing base with
  | nil => rfl
  | cons v vs ih => simp [numbered, ih]

theorem numbered_length (base : Nat) (vs : List Byte) : (numbered base vs).length = vs.length := by
  simp [numbered_eq_zipIdx]

theorem numbered_addresses_nodup (base : Nat) (vs : List Byte) : ((numbered base vs).map Prod.fst).Nodup := by
  have haddr : (numbered base vs).map Prod.fst = List.range' base vs.length := by
    rw [numbered_eq_zipIdx, List.map_map]
    exact List.zipIdx_map_snd _ _
  rw [haddr]
  exact List.nodup_range'

/-- Where the loader puts the byte at offset `i`. -/
theorem mem_numbered {base i : Nat} {vs : List Byte} (hi : i < vs.length) : (base + i, vs.getD i 0) ∈ numbered base vs := by
  rw [numbered_eq_zipIdx, List.mem_map]
  refine ⟨(vs.getD i 0, base + i), ?_, rfl⟩
  rw [List.mk_add_mem_zipIdx_iff_getElem?]
  simp [hi]

section
variable {s : State}

theorem loadOpenTurn_valid (hr : s.running = true) (hl : s.load = none) {image body : List Byte}
    (hb : validBody s.platform.prgMagic image = some body) :
    loadOpenTurn image s = .next { s with load := some (numbered 0x4000 body) } := by
  simp [loadOpenTurn, hr, hl, hb, State.beginLoad]

theorem loadCopyTurn_byte (hr : s.running = true) {cs : List Host.Cell} (hl : s.load = some cs) {k : Nat}
    (hk : k < cs.length) :
    loadCopyTurn k s = .next { s.writeBytes cs[k].1 [cs[k].2] with load := some (cs.eraseIdx k) } := by
  simp [loadCopyTurn, hr, hl, hk]

theorem loadDoneTurn_last (hr : s.running = true) (hl : s.load = some []) :
    loadDoneTurn s = .next { s.writeBytes 1 [1] with load := none } := by
  simp [loadDoneTurn, hr, hl]

end

/-- `t` is `s` with the cells `cs` copied to RAM, the loading-complete flag set, and the turns of the load taken. -/
structure State.Loaded (s : State) (cs : List Host.Cell) (rest : List Turn) (t : State) : Prop where
  frame : t = { s with mem := t.mem, load := none, sched := rest }
  flag : t.readByte 1 = 1
  copied : ∀ c ∈ cs, t.readByte c.1 = c.2
  others : ∀ a, a ≠ 1 → (∀ c ∈ cs, c.1 ≠ a) → t.readByte a = s.readByte a

/-- Copying one cell first and the others after it copies them all, since their addresses differ. -/
theorem State.Loaded.cons {s s' t : State} {c : Host.Cell} {cs : List Host.Cell} {rest : List Turn}
    (hs : s' = { s.writeBytes c.1 [c.2] with load := s'.load, sched := s'.sched }) (hc : c.1 ≠ 1)
    (hdistinct : ∀ d ∈ cs, d.1 ≠ c.1) (h : s'.Loaded cs rest t) : s.Loaded (c :: cs) rest t := by
  have hbyte (a : Nat) : s'.readByte a = (s.writeBytes c.1 [c.2]).readByte a := by rw [hs]; rfl
  refine ⟨?_, h.flag, ?_, fun a ha hcs => ?_⟩
  · rw [h.frame, hs]
    rfl
  · refine List.forall_mem_cons.2 ⟨?_, h.copied⟩
    rw [h.others c.1 hc hdistinct, hbyte, State.readByte_writeBytes]
    simp
  · obtain ⟨hne, hcs⟩ := List.forall_mem_cons.1 hcs
    rw [h.others a ha hcs, hbyte]
    exact s.writeByte_outside c.2 (Ne.symm hne)

theorem State.Loaded.perm {s t : State} {cs ds : List Host.Cell} {rest : List Turn} (h : s.Loaded cs rest t)
    (hp : cs.Perm ds) : s.Loaded ds rest t where
  frame := h.frame
  flag := h.flag
  copied c hc := h.copied c (hp.mem_iff.2 hc)
  others a ha hds := h.others a ha fun c hc => hds c (hp.mem_iff.1 hc)

/-- From a load in progress, copy turns that name a remaining byte each, in any order, and the loader's last turn. -/
theorem run_load (order : List Nat) (rest : List Turn) {s : State} {cs : List Host.Cell} (hr : s.running = true)
    (hl : s.load = some cs) (hlen : order.length = cs.length)
    (hk : ∀ (j : Nat) (hj : j < order.length), order[j] + j < cs.length)
    (hdistinct : (cs.map Prod.fst).Nodup) (hflag : ∀ c ∈ cs, c.1 ≠ 1)
    (hsched : s.sched = order.map Turn.loadCopy ++ .loadDone :: rest) :
    ∃ t, Host.Core.run Sys2Proof.core (cs.length + 1) s = .next t ∧ s.Loaded cs rest t := by
  induction order generalizing s cs with
  | nil =>
    obtain rfl : cs = [] := List.length_eq_zero_iff.1 hlen.symm
    have hstep := (step_eq (State.nextTurn_cons hsched)).trans (loadDoneTurn_last (s := s.dropTurn) hr hl)
    rw [State.dropTurn_cons hsched] at hstep
    refine ⟨_, run_succ hstep 0, rfl, ?_, by simp, fun a ha _ => ?_⟩
    · exact s.readByte_writeBytes 1 [1] 1
    · exact s.writeByte_outside 1 ha
  | cons k order ih =>
    have hk0 : k < cs.length := hk 0 (by simp)
    have hperm : (cs[k] :: cs.eraseIdx k).Perm cs := List.getElem_cons_eraseIdx_perm hk0
    have herase : (cs.eraseIdx k).length + 1 = cs.length := hperm.length_eq
    have hstep := (step_eq (State.nextTurn_cons hsched)).trans (loadCopyTurn_byte (s := s.dropTurn) hr hl hk0)
    rw [State.dropTurn_cons hsched] at hstep
    obtain ⟨hnew, hdistinct'⟩ := List.nodup_cons.1 ((hperm.map Prod.fst).nodup_iff.2 hdistinct)
    obtain ⟨t, hrun, hloaded⟩ := ih (s := { s.writeBytes cs[k].1 [cs[k].2] with
        load := some (cs.eraseIdx k), sched := order.map Turn.loadCopy ++ .loadDone :: rest }) (cs := cs.eraseIdx k)
      hr rfl (by simp only [List.length_cons] at hlen; omega)
      (fun j hj => by have := hk (j + 1) (by simpa using hj); simp only [List.getElem_cons_succ] at this; omega)
      hdistinct' (fun c hc => hflag c (hperm.mem_iff.1 (List.mem_cons_of_mem _ hc))) rfl
    refine ⟨t, ?_, (hloaded.cons rfl (hflag _ (List.getElem_mem hk0)) fun d hd he => ?_).perm hperm⟩
    · rw [← herase, run_succ hstep]
      exact hrun
    · exact hnew (he ▸ List.mem_map_of_mem hd)

/-- Settles O49: the header is valid, so the load opens with the body's bytes numbered from `PRG_START`, and `run_load`
copies them all. -/
theorem loaderCopiesTheProgram : Obligations.LoaderCopiesTheProgram := by
  intro s m0 m1 m2 m3 z0 z1 z2 z3 reserved body order rest hres hhold hpanic hl hmagic hsize hcap hlen hk hsched
  have hstep := (step_eq (State.nextTurn_cons hsched)).trans
    (loadOpenTurn_valid (s := s.dropTurn) (dropTurn_runs hhold hpanic) hl
      (validBody_of_header hres hmagic hsize hcap))
  rw [State.dropTurn_cons hsched] at hstep
  have hrange {c : Host.Cell} (hc : c ∈ numbered 0x4000 body) := numbered_range hc
  obtain ⟨t, hrun, hloaded⟩ := run_load order rest (cs := numbered 0x4000 body)
    (s := { s with load := some (numbered 0x4000 body), sched := order.map Turn.loadCopy ++ .loadDone :: rest })
    (s.running_iff.2 ⟨hhold, hpanic⟩) rfl (by rw [numbered_length, hlen]) (by simpa only [numbered_length] using hk)
    (numbered_addresses_nodup _ _) (fun c hc => by have := hrange hc; omega) rfl
  rw [numbered_length] at hrun
  refine ⟨t, (run_succ hstep _).trans hrun, ?_, fun a => ?_⟩
  · rw [hloaded.frame, ← hl]
  · by_cases hflag : a = 1
    · rw [if_pos hflag, hflag, hloaded.flag]
    · rw [if_neg hflag]
      by_cases ha : 0x4000 ≤ a ∧ a < 0x4000 + body.length
      · rw [if_pos ha]
        have hc := hloaded.copied _ (mem_numbered (base := 0x4000) (vs := body) (i := a - 0x4000) (by omega))
        rwa [show 0x4000 + (a - 0x4000) = a by omega] at hc
      · rw [if_neg ha]
        exact hloaded.others a hflag fun c hc he => ha (he ▸ hrange hc)

/-! ## Draining the queue (spec/20_memory.md R56, 46_vdc.md R162) -/

section
variable {s t : State}

theorem State.SameCpu.trans {u : State} (h : s.SameCpu t) (h' : t.SameCpu u) : s.SameCpu u where
  regs := h'.regs.trans h.regs
  pc := h'.pc.trans h.pc
  cr := h'.cr.trans h.cr
  ir := h'.ir.trans h.ir
  exc := h'.exc.trans h.exc
  cpuExc := h'.cpuExc.trans h.cpuExc
  cpuAccess := h'.cpuAccess.trans h.cpuAccess

/-- What decides whose turn is next and whether the VDC may take it. -/
structure State.SameControlOfTurns (s t : State) : Prop where
  sched : t.sched = s.sched
  resetHold : t.resetHold = s.resetHold
  panic : t.panic = s.panic
  retrace : t.retrace = s.retrace

theorem State.clear_sameControlOfTurns (s : State) : s.SameControlOfTurns s.clear := by
  unfold State.clear
  split <;> exact ⟨rfl, rfl, rfl, rfl⟩

theorem VdcEffect.sameControlOfTurns (h : VdcEffect s t) : s.SameControlOfTurns t := by
  cases h with
  | mode v => exact { State.clear_sameControlOfTurns _ with }
  | clear => exact s.clear_sameControlOfTurns
  | _ => exact ⟨rfl, rfl, rfl, rfl⟩

/-- With no walk in flight a turn of the VDC executes the oldest word. -/
theorem vdcTurn_pops (hs : s.Inv) (hr : s.running = true) (hw : s.retrace = false) {w : DWord} {rest : List DWord}
    (hq : s.q = w :: rest) : ∃ t, vdcTurn s = .next t ∧ VdcEffect { s with q := rest } t := by
  have hword : isDisplayWord w = true := hs.queueDisplay w (by simp [hq])
  have hfree : s.vdcHeld = false := by simp [State.vdcHeld, hq, hw]
  rcases vdcTurn_cases hr with ⟨-, h | h⟩ | ⟨w', rest', i, hq', hd, -, h⟩ | ⟨w', rest', e, hq', hd, -⟩
  · simp [hq] at h
  · simp [hfree] at h
  · obtain ⟨rfl, rfl⟩ := List.cons.inj (hq.symm.trans hq')
    have hi : i.isDisplay = true := by simpa [isDisplayWord, hd] using hword
    obtain ⟨t, ht, effect⟩ := vdcExec_effect hi { s with q := rest }
    exact ⟨t, h.trans ht, effect⟩
  · obtain ⟨rfl, rfl⟩ := List.cons.inj (hq.symm.trans hq')
    simp [isDisplayWord, hd] at hword

end

/-- Settles O57: by induction on the queue; each turn pops a word, keeps the invariant and leaves the walk and the CPU be. -/
theorem vdcTurnsDrainTheQueue : Obligations.VdcTurnsDrainTheQueue := by
  intro s rest hs hhold hpanic hw hsched
  generalize hq : s.q = words at hsched ⊢
  induction words generalizing s with
  | nil => exact ⟨s, rfl, hq, hsched, .refl s⟩
  | cons w words ih =>
    have hsched' : s.sched = .vdc :: (List.replicate words.length .vdc ++ rest) := hsched
    have hturn := State.nextTurn_cons hsched'
    obtain ⟨t, ht, effect⟩ := vdcTurn_pops hs.dropTurn (dropTurn_runs hhold hpanic) hw hq
    have hstep : step s = .next t := (step_eq hturn).trans ht
    have control := effect.sameControlOfTurns
    obtain ⟨u, hrun, hempty, hrest, hcpu⟩ := ih t (everyStepKeepsTheInvariant s t hs hstep)
      (control.resetHold.trans hhold) (control.panic.trans hpanic) (control.retrace.trans hw) effect.queue
      (control.sched.trans (congrArg List.tail hsched'))
    have same : s.SameCpu t := { effect.sameCpu with }
    exact ⟨u, (run_succ hstep _).trans hrun, hempty, hrest, same.trans hcpu⟩

end Sys2Proof.Machine

/-! PROOFS. The encoding: decoding and encoding undo each other but for ignored bits, and which opcode bytes are in the
table of R78. -/

namespace Sys2Proof

/-! ## Decode after encode (spec/30_encoding.md R71, R73, R86) -/

/-- The encoder drops no field. -/
@[simp] theorem Instr.withFields_encode (i : Instr) : i.withFields (encode i) = i := by
  cases i <;> simp [Instr.withFields, encode, packA]

/-- Settles O1: the encoder writes an instruction's opcode byte and fields, and these decide what a word decodes to. -/
theorem decodeEncodeAgree : Obligations.DecodeEncodeAgree := fun i =>
  (decode_eq_ok_iff _ i).2 ⟨wordOpc_encode i, i.withFields_encode⟩

/-! ## Encode after decode (spec/30_encoding.md R73)

A mask is itself a packed word, and masking acts field by field: a format's mask keeps whole fields and drops the others. -/

theorem packWord_and (opnd opnd' : Word) (sm sr dm dr sm' sr' dm' dr' : Bool) (rd rd' : BitVec 4) (opc opc' : Byte) :
    packWord opnd sm sr dm dr rd.toFin opc &&& packWord opnd' sm' sr' dm' dr' rd'.toFin opc' =
      packWord (opnd &&& opnd') (sm && sm') (sr && sr') (dm && dm') (dr && dr') (rd &&& rd').toFin (opc &&& opc') := by
  simp only [packWord, BitVec.ofFin_toFin, ← BitVec.ofBool_and_ofBool, ← BitVec.and_append]

/-- A field kept or dropped by a mask. -/
theorem and_keep {n : Nat} (x : BitVec n) (keep : Bool) :
    x &&& (bif keep then BitVec.allOnes n else 0#n) = bif keep then x else 0#n := by
  cases keep <;> simp

/-- The mask of a format: the opcode byte, with `opnd`, the source's flags, the destination's flags and `rd` where it reads
them. -/
def formatMask (opnd src dst rd : Bool) : DWord :=
  packWord (bif opnd then BitVec.allOnes 16 else 0#16) src src dst dst (bif rd then BitVec.allOnes 4 else 0#4).toFin
    (BitVec.allOnes 8)

section
variable {w : DWord}

/-- A word masked by a format: the fields that it reads, and 0 in the others. -/
theorem and_formatMask {opc : Byte} (h : wordOpc w = opc) (opnd src dst rd : Bool) :
    w &&& formatMask opnd src dst rd =
      packWord (bif opnd then wordOpnd w else 0#16) (src && wordSM w) (src && wordSR w) (dst && wordDM w) (dst && wordDR w)
        (bif rd then w.extractLsb' 8 4 else 0#4).toFin opc := by
  have hw : packWord (wordOpnd w) (wordSM w) (wordSR w) (wordDM w) (wordDR w) (w.extractLsb' 8 4).toFin opc = w :=
    h ▸ packWord_fields w
  conv_lhs => rw [← hw, formatMask, packWord_and, and_keep, and_keep, BitVec.and_allOnes]
  simp only [Bool.and_comm]

/-- Encoding the fields of a word with an instruction's opcode byte gives the word masked by the instruction's format. -/
theorem encode_withFields {i : Instr} (h : wordOpc w = i.opcode) : encode (i.withFields w) = w &&& usedBits i := by
  have masked := and_formatMask h
  cases i
  case halt | nop | rst | diclr | diwtrt =>
    exact (masked (opnd := false) (src := false) (dst := false) (rd := false)).symm
  case mov | movi | add | sub | cmp => exact (masked (opnd := true) (src := true) (dst := true) (rd := true)).symm
  case jmp | breq | brneq => exact (masked (opnd := true) (src := false) (dst := false) (rd := false)).symm
  case stopc => exact (masked (opnd := false) (src := false) (dst := false) (rd := true)).symm
  case movmr | disetxy => exact (masked (opnd := true) (src := false) (dst := false) (rd := true)).symm
  case dimd | dichar | diputpixel => exact (masked (opnd := true) (src := true) (dst := false) (rd := false)).symm

end

/-- Settles O2: a decoded word has its instruction's opcode byte and fields. -/
theorem encodeDecodeKeepsUsedBits : Obligations.EncodeDecodeKeepsUsedBits := by
  intro w i hd
  obtain ⟨ho, hf⟩ := decode_inv hd
  calc encode i = encode (i.withFields w) := by rw [hf]
    _ = w &&& usedBits i := encode_withFields ho

/-! ## The opcode bytes of the table (spec/30_encoding.md R78, R79) -/

/-- The opcode bytes of the nineteen instructions fill two ranges. -/
theorem exists_opcode_eq_iff (b : Byte) :
    (∃ i : Instr, b = i.opcode) ↔ b.toNat ≤ 0x0C ∨ (0x10 ≤ b.toNat ∧ b.toNat ≤ 0x15) := by
  constructor
  · rintro ⟨i, rfl⟩
    cases i <;> simp [Instr.opcode]
  · have hb : b = BitVec.ofNat 8 b.toNat := BitVec.eq_of_toNat_eq (by simp)
    generalize b.toNat = n at hb ⊢
    rintro (hlow | ⟨hmin, hmax⟩)
    · interval_cases n
      exacts [⟨.halt, hb⟩, ⟨.nop, hb⟩, ⟨.mov (wordFlags 0) 0 0, hb⟩, ⟨.movi (wordFlags 0) 0 0, hb⟩, ⟨.add (wordFlags 0) 0 0, hb⟩,
        ⟨.sub (wordFlags 0) 0 0, hb⟩, ⟨.jmp 0, hb⟩, ⟨.cmp (wordFlags 0) 0 0, hb⟩, ⟨.breq 0, hb⟩, ⟨.brneq 0, hb⟩, ⟨.stopc 0, hb⟩,
        ⟨.rst, hb⟩, ⟨.movmr 0 0, hb⟩]
    · interval_cases n
      exacts [⟨.dimd false false 0, hb⟩, ⟨.diclr, hb⟩, ⟨.diwtrt, hb⟩, ⟨.disetxy 0 0, hb⟩, ⟨.dichar false false 0, hb⟩,
        ⟨.diputpixel false false 0, hb⟩]

/-- A word with any other opcode byte is no instruction. -/
theorem decode_outside_table {w : DWord}
    (hw : (0x0D ≤ (wordOpc w).toNat ∧ (wordOpc w).toNat ≤ 0x0F) ∨ 0x16 ≤ (wordOpc w).toNat) :
    ∃ e, decode w = .error e := by
  cases hd : decode w with
  | error e => exact ⟨e, rfl⟩
  | ok i =>
    have hrange := (exists_opcode_eq_iff _).1 ⟨i, (decode_inv hd).1⟩
    omega

end Sys2Proof

namespace Sys2Proof.Machine

/-- Settles O3: dispatch follows the decoder, and the decoder rejects exactly the opcode bytes outside the table. -/
theorem unrecognizedOpcodeRaisesInstructionFault : Obligations.UnrecognizedOpcodeRaisesInstructionFault := by
  intro w
  refine ⟨fun hout s hs => ?_, fun hin => ?_⟩
  · obtain ⟨e, hd⟩ := decode_outside_table hout
    exact dispatch_error (hs ▸ hd)
  · obtain ⟨i, ho⟩ := (exists_opcode_eq_iff _).2 hin
    have hd := decode_of_opcode ho
    exact ⟨i.withFields w, hd, fun s hs => dispatch_ok (hs ▸ hd)⟩

end Sys2Proof.Machine

/-! PROOFS. The two CPU cycles that execute nothing: `pc` runs off the end of memory, or a fault is already pending. -/

namespace Sys2Proof.Machine

/-! ## Cycles that stop before execution (spec/40_cpu_cycle.md R90, R91, R93) -/

section
variable {s : State}

/-- A bit in `exc` or in one of the four local fields is a fault present at the end of the cycle. -/
theorem State.faultsPresent_eq_zero_iff :
    s.faultsPresent = 0 ↔ s.exc = 0 ∧ s.cpuExc = 0 ∧ s.vdcExc = 0 ∧ s.ioExc = 0 ∧ s.extExc = 0 := by
  simp [State.faultsPresent, BitVec.or_eq_zero_iff, and_assoc]

theorem State.raise_cpuExc_ne_zero (f : ExcKind) : (s.raise f).cpuExc ≠ 0 := by
  have hbit : f.bit ≠ 0 := by cases f <;> decide
  simpa [BitVec.or_eq_zero_iff] using fun _ => hbit

/-- The end of a cycle with a fault present always stops the machine. -/
theorem State.aggregate_of_fault (h : s.faultsPresent ≠ 0) :
    s.aggregate = { s with exc := s.faultsPresent, panic := true } := by
  rw [State.aggregate, decide_eq_true h, Bool.or_true]

theorem cpuTurn_stray (hr : s.running = true) (ha : s.cpuAccess = none) (hpc : 65532 < (s.pc + 4).toNat) :
    cpuTurn s = .next (s.advance.raise .prg).aggregate := by
  obtain ⟨t, ht, effect⟩ := cpuTurn_effect hr
  cases effect with
  | stray => exact ht
  | finished a ha' => simp [ha] at ha'
  | pending _ h | ran _ h | unrecognized _ h => exact absurd hpc (Nat.not_lt.2 h)

theorem cpuTurn_pending (hr : s.running = true) (ha : s.cpuAccess = none) (hpc : (s.pc + 4).toNat ≤ 65532)
    (he : s.exc ≠ 0) : cpuTurn s = .next s.advance.fetch.aggregate := by
  obtain ⟨t, ht, effect⟩ := cpuTurn_effect hr
  cases effect with
  | pending => exact ht
  | finished a ha' => simp [ha] at ha'
  | stray _ h => exact absurd h (Nat.not_lt.2 hpc)
  | ran _ _ h | unrecognized _ _ h => exact absurd h he

end

/-- Settles O27: the cycle is one increment and one raise, and the raised bit makes the aggregation stop the machine. -/
theorem strayProgramRaisesProgramFault : Obligations.StrayProgramRaisesProgramFault := by
  intro s hhold hpanic hturn ha hpc
  have hfault : (s.dropTurn.advance.raise .prg).faultsPresent ≠ 0 := fun h =>
    State.raise_cpuExc_ne_zero .prg (State.faultsPresent_eq_zero_iff.1 h).2.1
  calc step s = cpuTurn s.dropTurn := step_eq hturn
    _ = .next (s.dropTurn.advance.raise .prg).aggregate := cpuTurn_stray (dropTurn_runs hhold hpanic) ha hpc
    _ = _ := congrArg Host.Outcome.next (State.aggregate_of_fault hfault)

/-- Settles O28: the cycle is one increment and one fetch, and the pending bit makes the aggregation stop the machine. -/
theorem pendingFaultSkipsExecute : Obligations.PendingFaultSkipsExecute := by
  intro s hhold hpanic hturn ha hpc he
  have hfault : s.dropTurn.advance.fetch.faultsPresent ≠ 0 := fun h => he (State.faultsPresent_eq_zero_iff.1 h).1
  calc step s = cpuTurn s.dropTurn := step_eq hturn
    _ = .next s.dropTurn.advance.fetch.aggregate := cpuTurn_pending (dropTurn_runs hhold hpanic) ha hpc he
    _ = _ := congrArg Host.Outcome.next (State.aggregate_of_fault hfault)

end Sys2Proof.Machine

/-! PROOFS. The system instructions, and the spec's example words. -/

namespace Sys2Proof

/-! ## Example words (spec/30_encoding.md R73) -/

/-- The word that the encoder writes for an instruction decodes to it: to read a word is to find what it encodes. -/
theorem decode_of_encode_eq {w : DWord} {i : Instr} (h : encode i = w) : decode w = .ok i :=
  h ▸ decodeEncodeAgree i

/-- Settles O4: the spec writes its examples with 0 in the ignored bits, so each word is the encoding of its instruction. -/
theorem exampleWordsDecode : Obligations.ExampleWordsDecode := by
  refine ⟨?mov, ?movi, ?movmr, ?add, ?cmp, ?jmp, ?stopc, ?dichar, ?disetxy⟩ <;>
    exact decode_of_encode_eq (by decide)

end Sys2Proof

namespace Sys2Proof.Machine

/-! ## halt, nop, stopc (spec/41_system.md R110 to R112) -/

theorem exec_halt (s : State) : exec .halt s = .next { s with panic := true } := rfl

theorem exec_nop (s : State) : exec .nop s = .next s := rfl

/-- Settles O17: the opcode byte alone chooses `halt`, and its effect is one write of `panic`. -/
theorem haltSetsPanic : Obligations.HaltSetsPanic :=
  ⟨fun _ ho => decode_of_opcode (i := .halt) ho, exec_halt⟩

/-- Settles O18: the opcode byte alone chooses `nop`, and it has no effect. -/
theorem nopChangesNothing : Obligations.NopChangesNothing :=
  ⟨fun _ ho => decode_of_opcode (i := .nop) ho, exec_nop⟩

/-- Settles O19: the opcode byte and the field `rd` choose `stopc`, and the bits `pc[15:0]` that it stores are `pc` modulo
2^16. -/
theorem stopcStoresPc : Obligations.StopcStoresPc := by
  refine ⟨fun w ho => decode_of_opcode (i := .stopc (wordRd w)) ho, fun rd s => ?_⟩
  have low : s.pc.extractLsb' 0 16 = BitVec.ofNat 16 s.pc.toNat := BitVec.eq_of_toNat_eq (by simp)
  rw [exec_stopc, low]

end Sys2Proof.Machine

/-! PROOFS. The byte moves `mov` and `movmr`. -/

namespace Sys2Proof.Machine

/-! ## 8-bit operands (spec/40_cpu_cycle.md R96, 20_memory.md R46, R47) -/

theorem Width.byte_mask_toNat (v : Word) : (Width.byte.mask v).toNat = v.toNat % 256 := by
  rw [Width.mask, BitVec.toNat_and]
  exact Nat.and_two_pow_sub_one_eq_mod v.toNat 8

theorem Width.byte_mask_ofNat (n : Nat) : Width.byte.mask (BitVec.ofNat 16 n) = BitVec.ofNat 16 (n % 256) := by
  apply BitVec.eq_of_toNat_eq
  rw [Width.byte_mask_toNat, BitVec.toNat_ofNat, BitVec.toNat_ofNat]
  omega

/-- A byte store takes the low byte of its value, which the mask of `Resolve` keeps. -/
theorem State.memWrite_byte_mask (s : State) (a : Nat) (v : Word) :
    s.memWrite .byte a (Width.byte.mask v) = s.writeBytes a [v.extractLsb' 0 8] := by
  have low : (Width.byte.mask v).extractLsb' 0 8 = v.extractLsb' 0 8 := by
    apply BitVec.eq_of_toNat_eq
    rw [lowByte_toNat, lowByte_toNat, Width.byte_mask_toNat, Nat.mod_mod]
  rw [State.memWrite, storedBytes, low]

/-- A byte load zero-extends. -/
theorem State.memRead_byte_eq_ofNat (s : State) (a : Nat) :
    s.memRead .byte a = BitVec.ofNat 16 (s.readByte a).toNat :=
  (BitVec.ofNat_toNat 16 (s.readByte a)).symm

/-! ## mov (spec/42_data_movement.md R120) -/

section
variable {m : ModeFlags} {rd : RegId} {opnd : Word} {s : State}

theorem RegForm.execMov_eq {raw : Nat} (h : RegForm m opnd 1 s raw) :
    exec (.mov m rd opnd) s = .next (s.setReg rd (Width.byte.mask (BitVec.ofNat 16 raw))) :=
  congrArg Host.Outcome.next (RegForm.withResolved_eq (w := .byte) h _)

theorem MemForm.execMov_eq (h : MemForm m opnd 1) :
    exec (.mov m rd opnd) s = .next (s.memWrite .byte opnd.toNat (Width.byte.mask (s.reg rd))) :=
  congrArg Host.Outcome.next (MemForm.withResolved_eq (w := .byte) h _)

theorem FormFaults.execMov_eq {f : Byte} (h : FormFaults m opnd 1 f) :
    exec (.mov m rd opnd) s = .next { s with cpuExc := s.cpuExc ||| f } :=
  congrArg Host.Outcome.next (FormFaults.withResolved_eq (w := .byte) h _)

end

/-- Settles O8: `mov` writes the masked value of `Resolve` to its destination, or raises; the mask keeps the low byte, and a
byte store takes no more. -/
theorem movMovesOneByte : Obligations.MovMovesOneByte := by
  refine ⟨fun w ho => decode_of_opcode (i := .mov (wordFlags w) (wordRd w) (wordOpnd w)) ho,
    fun m rd opnd s => ⟨?register, ?memory, fun f h => h.execMov_eq⟩⟩
  case register =>
    intro raw h
    rw [h.execMov_eq, Width.byte_mask_ofNat]
  case memory =>
    intro h
    rw [h.execMov_eq, State.memWrite_byte_mask]

/-! ## movmr (spec/42_data_movement.md R124) -/

theorem exec_movmr_of_lt {rd : RegId} {rs : Word} {s : State} (h : rs.toNat < 16) :
    exec (.movmr rd rs) s = .next (s.setReg rd (s.memRead .byte (s.reg ⟨rs.toNat, h⟩).toNat)) := by
  simp only [exec, execMovmr, regIndex_of_lt h]

theorem exec_movmr_of_gt {rd : RegId} {rs : Word} {s : State} (h : 15 < rs.toNat) :
    exec (.movmr rd rs) s = .next (s.raise .reg) := by
  simp only [exec, execMovmr, regIndex_of_gt h]

/-- Settles O10: the field `rs` names a register exactly when it is at most 15, and the byte at the address in that register
is read zero-extended. -/
theorem movmrLoadsOneByte : Obligations.MovmrLoadsOneByte := by
  refine ⟨fun w ho => decode_of_opcode (i := .movmr (wordRd w) (wordOpnd w)) ho,
    fun rd rs s => ⟨fun h => ?_, fun h => exec_movmr_of_gt h⟩⟩
  rw [exec_movmr_of_lt h, State.memRead_byte_eq_ofNat]

end Sys2Proof.Machine

/-! PROOFS. The byte arithmetic `add` and `sub`. -/

namespace Sys2Proof.Machine

/-! ## A destination combined with an 8-bit operand (spec/40_cpu_cycle.md R96) -/

/-- What `add` and `sub` share: the destination's value and the operand's byte, combined by `op` and stored back. -/
def State.updateDest (s : State) (op : Word → Word → Word) (m : ModeFlags) (rd : RegId) (opnd : Word) : State :=
  withResolved .byte m rd opnd s fun d v => s.writeDest .byte d (op (s.readDest .byte d) v)

theorem exec_add (m : ModeFlags) (rd : RegId) (opnd : Word) (s : State) :
    exec (.add m rd opnd) s = .next (s.updateDest (· + ·) m rd opnd) := rfl

theorem exec_sub (m : ModeFlags) (rd : RegId) (opnd : Word) (s : State) :
    exec (.sub m rd opnd) s = .next (s.updateDest (· - ·) m rd opnd) := rfl

section
variable {m : ModeFlags} {rd : RegId} {opnd : Word} {s : State} (op : Word → Word → Word)

theorem RegForm.updateDest_eq {raw : Nat} (h : RegForm m opnd 1 s raw) :
    s.updateDest op m rd opnd = s.setReg rd (op (s.reg rd) (BitVec.ofNat 16 (raw % 256))) := by
  rw [← Width.byte_mask_ofNat]
  exact RegForm.withResolved_eq (w := .byte) h _

theorem MemForm.updateDest_eq (h : MemForm m opnd 1) :
    s.updateDest op m rd opnd = s.writeBytes opnd.toNat
      [(op (s.memRead .byte opnd.toNat) (Width.byte.mask (s.reg rd))).extractLsb' 0 8] :=
  MemForm.withResolved_eq (w := .byte) h _

theorem FormFaults.updateDest_eq {f : Byte} (h : FormFaults m opnd 1 f) :
    s.updateDest op m rd opnd = { s with cpuExc := s.cpuExc ||| f } :=
  FormFaults.withResolved_eq (w := .byte) h _

end

/-! ## add (spec/43_arithmetic_compare.md R130) -/

/-- A sum wraps at the width of its first term. -/
theorem add_ofNat_eq {n : Nat} (x : BitVec n) (k : Nat) : x + BitVec.ofNat n k = BitVec.ofNat n (x.toNat + k) := by
  rw [BitVec.ofNat_add, BitVec.ofNat_toNat, BitVec.setWidth_eq]

/-- The low byte of a sum depends on the terms' low bytes only, so the 16-bit sum wraps at 8 bits in memory. -/
theorem lowByte_memRead_add_mask (s : State) (a : Nat) (v : Word) :
    (s.memRead .byte a + Width.byte.mask v).extractLsb' 0 8 = BitVec.ofNat 8 ((s.readByte a).toNat + v.toNat) := by
  apply BitVec.eq_of_toNat_eq
  rw [lowByte_toNat, BitVec.toNat_add, State.memRead_byte_toNat, Width.byte_mask_toNat, BitVec.toNat_ofNat]
  omega

/-- Settles O11: `add` is `updateDest` with the 16-bit sum, which is stored whole in a register and cut to its low byte in
memory. -/
theorem addAddsAByte : Obligations.AddAddsAByte := by
  refine ⟨fun w ho => decode_of_opcode (i := .add (wordFlags w) (wordRd w) (wordOpnd w)) ho,
    fun m rd opnd s => ⟨fun raw h => ?register, fun h => ?memory, fun f h => ?fault⟩⟩
  case register => rw [exec_add, h.updateDest_eq, add_ofNat_eq]
  case memory => rw [exec_add, h.updateDest_eq, lowByte_memRead_add_mask]
  case fault => rw [exec_add, h.updateDest_eq]

/-! ## sub (spec/43_arithmetic_compare.md R132) -/

/-- A difference below zero wraps to the top of the range of its first term's width. -/
theorem sub_ofNat_eq {n : Nat} (x : BitVec n) (k : Nat) :
    x - BitVec.ofNat n k = BitVec.ofInt n ((x.toNat : Int) - (k : Int)) := by
  rw [Int.sub_eq_add_neg, BitVec.ofInt_add, BitVec.ofInt_neg, BitVec.ofInt_natCast, BitVec.ofInt_natCast,
    BitVec.ofNat_toNat, BitVec.setWidth_eq, BitVec.sub_eq_add_neg]

/-- The low byte of a difference depends on the terms' low bytes only, so a borrow out of the byte is dropped in memory. -/
theorem lowByte_memRead_sub_mask (s : State) (a : Nat) (v : Word) :
    (s.memRead .byte a - Width.byte.mask v).extractLsb' 0 8 =
      BitVec.ofInt 8 (((s.readByte a).toNat : Int) - (v.toNat : Int)) := by
  apply BitVec.eq_of_toNat_eq
  rw [lowByte_toNat, BitVec.toNat_sub, State.memRead_byte_toNat, Width.byte_mask_toNat, BitVec.toNat_ofInt]
  omega

/-- Settles O12: `sub` is `updateDest` with the 16-bit difference, which is stored whole in a register and cut to its low
byte in memory. -/
theorem subSubtractsAByte : Obligations.SubSubtractsAByte := by
  refine ⟨fun w ho => decode_of_opcode (i := .sub (wordFlags w) (wordRd w) (wordOpnd w)) ho,
    fun m rd opnd s => ⟨fun raw h => ?register, fun h => ?memory, fun f h => ?fault⟩⟩
  case register => rw [exec_sub, h.updateDest_eq, sub_ofNat_eq]
  case memory => rw [exec_sub, h.updateDest_eq, lowByte_memRead_sub_mask]
  case fault => rw [exec_sub, h.updateDest_eq]

end Sys2Proof.Machine

/-! PROOFS. Control transfer `jmp`, `breq` and `brneq`. -/

namespace Sys2Proof.Machine

/-! ## Targets (spec/44_control_transfer.md R140) -/

theorem branchPc_eq_ofInt (v : Word) : branchPc v = BitVec.ofInt 32 ((v.toNat : Int) - 4) := by
  have wide : (v.setWidth 32).toNat = v.toNat := BitVec.toNat_setWidth_of_le (by decide)
  rw [← wide]
  exact sub_ofNat_eq (v.setWidth 32) 4

section
variable {t : Word} {s : State} {a : Nat}

/-- A field that names a target resolves to a word whose `pc` is 4 below that target. -/
theorem TargetIs.resolveTarget_ok (h : TargetIs t s a) :
    ∃ v, resolveTarget t s = .ok v ∧ branchPc v = BitVec.ofInt 32 ((a : Int) - 4) := by
  rcases h with ⟨habs, rfl⟩ | ⟨hr, rfl⟩
  · exact ⟨t, if_pos habs, branchPc_eq_ofInt t⟩
  · have low : ¬ Config.romStart ≤ t.toNat := by simp only [Config.romStart]; omega
    exact ⟨s.reg ⟨t.toNat, hr⟩, by rw [resolveTarget, if_neg low, regIndex_of_lt hr], branchPc_eq_ofInt _⟩

theorem resolveTarget_of_gap (hlo : 15 < t.toNat) (hhi : t.toNat < 0x0100) : resolveTarget t s = .error .instr := by
  rw [resolveTarget, if_neg (Nat.not_le.2 hhi), regIndex_of_gt hlo]

/-! ## jmp (spec/44_control_transfer.md R142) -/

theorem TargetIs.exec_jmp (h : TargetIs t s a) :
    exec (.jmp t) s = .next { s with pc := BitVec.ofInt 32 ((a : Int) - 4) } := by
  obtain ⟨v, hv, hpc⟩ := h.resolveTarget_ok
  simp only [exec, execJmp, hv, hpc]

theorem exec_jmp_of_gap (hlo : 15 < t.toNat) (hhi : t.toNat < 0x0100) : exec (.jmp t) s = .next (s.raise .instr) := by
  simp only [exec, execJmp, resolveTarget_of_gap hlo hhi]

end

/-- Settles O14: the field's two target forms resolve and the gap between them raises. -/
theorem jmpSetsPcFourBelowTarget : Obligations.JmpSetsPcFourBelowTarget :=
  ⟨fun w ho => decode_of_opcode (i := .jmp (wordOpnd w)) ho,
    fun _ _ => ⟨fun _ h => h.exec_jmp, exec_jmp_of_gap⟩⟩

/-! ## The flag a conditional branch tests (spec/10_state.md R16) -/

/-- A flag of one bit is held exactly when `cr` has that bit. -/
theorem State.hasFlag_twoPow (s : State) {k : Nat} (hk : k < 8) : s.hasFlag (BitVec.twoPow 8 k) = s.cr.getLsbD k := by
  have nonzero : BitVec.twoPow 8 k ≠ 0 := fun h => by simpa [hk] using congrArg (BitVec.getLsbD · k) h
  rw [State.hasFlag, BitVec.and_twoPow]
  cases s.cr.getLsbD k with
  | true => exact decide_eq_true nonzero
  | false => rfl

theorem State.hasFlag_ccEq (s : State) : s.hasFlag Config.ccEq = s.cr.getLsbD 0 := s.hasFlag_twoPow (k := 0) (by decide)

theorem State.hasFlag_ccNeq (s : State) : s.hasFlag Config.ccNeq = s.cr.getLsbD 1 := s.hasFlag_twoPow (k := 1) (by decide)

/-! ## The conditional branch on a flag (spec/44_control_transfer.md R144, R145) -/

section
variable {t : Word} {s : State} {a : Nat} {flag : Byte}

theorem TargetIs.branchIf_taken (h : TargetIs t s a) (hf : s.hasFlag flag = true) :
    s.branchIf flag t = { s with cr := 0x40, pc := BitVec.ofInt 32 ((a : Int) - 4) } := by
  obtain ⟨v, hv, hpc⟩ := h.resolveTarget_ok
  simp only [State.branchIf, hv, hf, hpc, if_true, State.setCr]

theorem TargetIs.branchIf_not_taken (h : TargetIs t s a) (hf : s.hasFlag flag = false) :
    s.branchIf flag t = { s with cr := 0x40 } := by
  obtain ⟨v, hv, -⟩ := h.resolveTarget_ok
  simp only [State.branchIf, hv, hf, Bool.false_eq_true, if_false, State.setCr]

theorem State.branchIf_of_gap (hlo : 15 < t.toNat) (hhi : t.toNat < 0x0100) : s.branchIf flag t = s.raise .instr := by
  simp only [State.branchIf, resolveTarget_of_gap hlo hhi]

end

/-- What `breq` and `brneq` share: an instruction that branches on a flag is taken exactly when `cr` has the flag's bit `k`,
resets `cr` either way, and does neither when its target is bad. -/
theorem exec_branch {i : Instr} {t : Word} {s : State} {flag : Byte} {k : Nat}
    (he : exec i s = .next (s.branchIf flag t)) (hflag : s.hasFlag flag = s.cr.getLsbD k) :
    (∀ a, TargetIs t s a → s.cr.getLsbD k = true →
      exec i s = .next { s with cr := 0x40, pc := BitVec.ofInt 32 ((a : Int) - 4) }) ∧
    (∀ a, TargetIs t s a → s.cr.getLsbD k = false → exec i s = .next { s with cr := 0x40 }) ∧
    (15 < t.toNat → t.toNat < 0x0100 → exec i s = .next (s.raise .instr)) := by
  rw [he]
  refine ⟨fun a h hk => ?taken, fun a h hk => ?not_taken, fun hlo hhi => ?fault⟩
  case taken => rw [h.branchIf_taken (hflag.trans hk)]
  case not_taken => rw [h.branchIf_not_taken (hflag.trans hk)]
  case fault => rw [State.branchIf_of_gap hlo hhi]

theorem exec_breq (t : Word) (s : State) : exec (.breq t) s = .next (s.branchIf Config.ccEq t) := rfl

theorem exec_brneq (t : Word) (s : State) : exec (.brneq t) s = .next (s.branchIf Config.ccNeq t) := rfl

/-- Settles O15: `breq` is the branch on `CC_EQ`, which is bit 0 of `cr`. -/
theorem breqBranchesOnEqual : Obligations.BreqBranchesOnEqual :=
  ⟨fun w ho => decode_of_opcode (i := .breq (wordOpnd w)) ho,
    fun t s => exec_branch (exec_breq t s) s.hasFlag_ccEq⟩

/-- Settles O16: `brneq` is the branch on `CC_NEQ`, which is bit 1 of `cr`. -/
theorem brneqBranchesOnNotEqual : Obligations.BrneqBranchesOnNotEqual :=
  ⟨fun w ho => decode_of_opcode (i := .brneq (wordOpnd w)) ho,
    fun t s => exec_branch (exec_brneq t s) s.hasFlag_ccNeq⟩

end Sys2Proof.Machine

/-! PROOFS. The display class: the CPU forwards its words to the VDC's queue, and the VDC meets no other word there. -/

namespace Sys2Proof

/-- The display class is the six opcode bytes of the table's second range (spec/45_display_forwarding.md R150). -/
theorem Instr.isDisplay_iff_opcode (i : Instr) :
    i.isDisplay = true ↔ 0x10 ≤ i.opcode.toNat ∧ i.opcode.toNat ≤ 0x15 := by
  cases i <;> simp [Instr.isDisplay, Instr.opcode]

theorem decode_display_iff (w : DWord) :
    (∃ i, decode w = .ok i ∧ i.isDisplay = true) ↔ 0x10 ≤ (wordOpc w).toNat ∧ (wordOpc w).toNat ≤ 0x15 := by
  constructor
  · rintro ⟨i, hd, hi⟩
    rw [(decode_inv hd).1]
    exact i.isDisplay_iff_opcode.1 hi
  · intro hrange
    obtain ⟨i, ho⟩ := (exists_opcode_eq_iff _).2 (.inr hrange)
    have hd := decode_of_opcode ho
    exact ⟨_, hd, (Instr.isDisplay_iff_opcode _).2 ((decode_inv hd).1 ▸ hrange)⟩

end Sys2Proof

namespace Sys2Proof.Machine

/-! ## Forwarding (spec/45_display_forwarding.md R150, R152) -/

theorem State.forward_of_room {s : State} (h : s.q.length ≠ 32) : s.forward = { s with q := s.q ++ [s.ir] } := if_neg h

theorem State.forward_of_full {s : State} (h : s.q.length = 32) : s.forward = s.raise .display := if_pos h

/-- Settles O21: the six share one rule in the CPU, which asks for the queue's length and nothing of the word. -/
theorem displayWordsAreForwarded : Obligations.DisplayWordsAreForwarded := by
  refine ⟨fun w => (decode_display_iff w).symm, fun i s hi => ⟨fun hroom => ?_, fun hfull => ?_⟩⟩
  · rw [exec_display hi, State.forward_of_room hroom]
  · rw [exec_display hi, State.forward_of_full hfull]
    rfl

/-! ## Which turns can stop for good (spec/46_vdc.md R162, 70_reset_and_hazards.md R236) -/

theorem exists_next_ite {c : Prop} [Decidable c] {a b : Result} (ha : ∃ t, a = .next t) (hb : ∃ t, b = .next t) :
    ∃ t, (if c then a else b) = .next t := by
  split
  · exact ha
  · exact hb

section
variable (s : State)

theorem cpuTurn_next : ∃ t, cpuTurn s = .next t := by
  cases hr : s.running with
  | true => exact (cpuTurn_effect hr).imp fun _ => And.left
  | false => exact ⟨s, cpuTurn_stopped hr⟩

theorem ioinTurn_next (value : Option Nat) : ∃ t, ioinTurn value s = .next t := by
  cases value <;> exact exists_next_ite ⟨_, rfl⟩ ⟨_, rfl⟩

theorem ioinFinishTurn_next : ∃ t, ioinFinishTurn s = .next t := by
  unfold ioinFinishTurn
  split <;> exact ⟨_, rfl⟩

theorem iooutTurn_next (ok : Bool) : ∃ t, iooutTurn ok s = .next t :=
  exists_next_ite (exists_next_ite ⟨_, rfl⟩ ⟨_, rfl⟩) ⟨_, rfl⟩

theorem iooutFinishTurn_next (ok : Bool) : ∃ t, iooutFinishTurn ok s = .next t := by
  unfold iooutFinishTurn
  split
  · exact exists_next_ite ⟨_, rfl⟩ ⟨_, rfl⟩
  · exact ⟨_, rfl⟩

theorem loadCopyTurn_next (k : Nat) : ∃ t, loadCopyTurn k s = .next t := by
  refine exists_next_ite ?_ ⟨_, rfl⟩
  split
  · exact ⟨_, rfl⟩
  · split <;> exact ⟨_, rfl⟩

/-- Only the VDC and the HOST at the end of a run can answer anything but a next state. -/
theorem runTurn_next {turn : Turn} (hvdc : turn ≠ .vdc) (hend : turn ≠ .endOfRun) : ∃ t, runTurn turn s = .next t := by
  cases turn with
  | vdc => exact absurd rfl hvdc
  | endOfRun => exact absurd rfl hend
  | cpu => exact cpuTurn_next s
  | ioin value => exact ioinTurn_next s value
  | ioinFinish => exact ioinFinishTurn_next s
  | ioout ok => exact iooutTurn_next s ok
  | iooutFinish ok => exact iooutFinishTurn_next s ok
  | loadCopy k => exact loadCopyTurn_next s k
  | release | control => exact ⟨_, rfl⟩
  | renderStart | renderSample | renderFinish | shutdown | loadOpen | loadDirect | loadDone | bootStatus =>
    exact exists_next_ite ⟨_, rfl⟩ ⟨_, rfl⟩

theorem endOfRunTurn_fault {f : Fault} (h : endOfRunTurn s = .fault f) : f = .finalStop := by
  unfold endOfRunTurn at h
  split at h
  · split at h
    · cases h
      rfl
    · split at h <;> cases h
  · cases h

end

/-- The invariant lets only display words into the queue, and the VDC executes each of them. -/
theorem vdcTurn_next {s : State} (hs : s.Inv) : ∃ t, vdcTurn s = .next t := by
  cases hr : s.running with
  | false => exact ⟨s, vdcTurn_stopped hr⟩
  | true =>
    rcases vdcTurn_cases hr with ⟨h, -⟩ | ⟨w, rest, i, hq, hd, -, h⟩ | ⟨w, rest, e, hq, hd, -⟩
    · exact ⟨s, h⟩
    · have hi : i.isDisplay = true := by simpa [isDisplayWord, hd] using hs.queueDisplay w (by simp [hq])
      obtain ⟨t, ht, -⟩ := vdcExec_effect hi { s with q := rest }
      exact ⟨t, h.trans ht⟩
    · have hw : isDisplayWord w = true := hs.queueDisplay w (by simp [hq])
      simp [isDisplayWord, hd] at hw

/-- Settles O52: the VDC's turn answers a next state, the end of a run stops for another reason, and no other turn stops. -/
theorem queueNeverHoldsForeignWords : Obligations.QueueNeverHoldsForeignWords := by
  intro s hs hstop
  by_cases hvdc : s.nextTurn = .vdc
  · obtain ⟨t, ht⟩ := vdcTurn_next hs.dropTurn
    cases hstop.symm.trans ((step_eq hvdc).trans ht)
  · by_cases hend : s.nextTurn = .endOfRun
    · cases endOfRunTurn_fault _ ((step_eq hend).symm.trans hstop)
    · obtain ⟨t, ht⟩ := runTurn_next s.dropTurn hvdc hend
      cases hstop.symm.trans ht

end Sys2Proof.Machine

/-! PROOFS. The VDC: its step, the six display instructions as it executes them, and all that it may write. -/

namespace Sys2Proof.Machine

/-! ## The VDC's step (spec/46_vdc.md R161 to R163) -/

section
variable {s : State} {w : DWord} {rest : List DWord} {i : Instr}

/-- `diwtrt` is known by its opcode byte alone, so the hold is a fact about the decoded word. -/
theorem State.vdcHeld_iff (hq : s.q = w :: rest) (hd : decode w = .ok i) :
    s.vdcHeld = true ↔ i = .diwtrt ∧ s.vmode ≠ .off ∧ s.retrace = true := by
  have hopc : wordOpc w = Config.opcDiwtrt ↔ i = .diwtrt := by
    constructor
    · intro ho
      exact Except.ok.inj (hd.symm.trans (decode_of_opcode (i := .diwtrt) ho))
    · rintro rfl
      exact (decode_inv hd).1
  simp only [State.vdcHeld, hq, Bool.and_eq_true, decide_eq_true_eq, hopc, and_assoc]

theorem vdcTurn_of_empty (hq : s.q = []) : vdcTurn s = .next s := by simp [vdcTurn, hq]

theorem vdcTurn_of_held (hheld : s.vdcHeld = true) : vdcTurn s = .next s := by simp [vdcTurn, hheld]

theorem vdcTurn_executes (hr : s.running = true) (hheld : ¬s.vdcHeld = true) (hq : s.q = w :: rest)
    (hd : decode w = .ok i) : vdcTurn s = vdcExec i { s with q := rest } := by
  simp [vdcTurn, hr, hheld, hq, hd]

end

/-- Settles O32: the VDC is held exactly by a `diwtrt` at the head, with the adapter enabled and a walk in flight. -/
theorem vdcPopsOldestWordUnlessHeld : Obligations.VdcPopsOldestWordUnlessHeld := by
  intro s hhold hpanic hturn
  rw [step_eq hturn]
  refine ⟨fun hq => vdcTurn_of_empty (s := s.dropTurn) hq, fun w rest i hq hd => ?_⟩
  have hheld := State.vdcHeld_iff (s := s.dropTurn) hq hd
  exact ⟨fun h => vdcTurn_of_held (hheld.2 h),
    fun h => vdcTurn_executes (dropTurn_runs hhold hpanic) (mt hheld.1 h) hq hd⟩

/-! ## Modes (spec/46_vdc.md R164) -/

section
variable {v : VMode} {h rows : Nat}

theorem ModeSize.ne_off (hm : ModeSize v h rows) : v ≠ .off := by
  rintro rfl
  simp [ModeSize, TextMode] at hm

theorem ModeSize.contains_iff (hm : ModeSize v h rows) (x y : Word) :
    v.contains x y = true ↔ x.toNat < h ∧ y.toNat < rows := by
  obtain ⟨rfl, rfl⟩ := hm.eq
  exact v.contains_iff x y

/-- A coordinate past the columns or the rows lies outside. -/
theorem ModeSize.not_contains (hm : ModeSize v h rows) {x y : Word} (hout : h ≤ x.toNat ∨ rows ≤ y.toNat) :
    ¬v.contains x y = true := by
  rw [hm.contains_iff]
  omega

theorem TextMode.ne_pixel (hm : TextMode v h rows) : v ≠ .pixel := by
  rintro rfl
  simp [TextMode] at hm

theorem modeSize_pixel : ModeSize .pixel 640 480 := .inr ⟨rfl, rfl, rfl⟩

end

/-- A mode byte is valid exactly when the table of R164 has it. -/
theorem VMode.ofCode_eq_some_iff (hasPixel : Bool) {b : Nat} (hb : b < 256) (v : VMode) :
    VMode.ofCode hasPixel (BitVec.ofNat 8 b) = some v ↔ ModeCode hasPixel b v := by
  have code (m : Byte) : BitVec.ofNat 8 b = m ↔ b = m.toNat := by
    rw [← BitVec.toNat_inj, BitVec.toNat_ofNat, Nat.mod_eq_of_lt hb]
  have text8x12 : BitVec.ofNat 8 b = Config.modeText8x12 ↔ b = 1 := code _
  have text80x25 : BitVec.ofNat 8 b = Config.modeText80x25 ↔ b = 2 := code _
  have pixel : BitVec.ofNat 8 b = Config.modePixel640x480 ↔ b = 3 := code _
  unfold VMode.ofCode ModeCode
  simp only [text8x12, text80x25, pixel]
  split_ifs with h1 h2 h3
  · subst h1
    simp [eq_comm]
  · subst h2
    simp [eq_comm]
  · obtain ⟨rfl, hp⟩ := h3
    simp [hp, eq_comm]
  · have hp : ¬(b = 3 ∧ hasPixel = true ∧ v = .pixel) := fun ⟨hb3, hp, _⟩ => h3 ⟨hb3, hp⟩
    simp [h1, h2, hp]

theorem VMode.ofCode_eq_none {hasPixel : Bool} {b : Nat} (hb : b < 256) (hv : ∀ v, ¬ModeCode hasPixel b v) :
    VMode.ofCode hasPixel (BitVec.ofNat 8 b) = none :=
  Option.eq_none_iff_forall_ne_some.2 fun v e => hv v ((VMode.ofCode_eq_some_iff hasPixel hb v).1 e)

/-! ## The source byte (spec/46_vdc.md R166) -/

section
variable {sr sm : Bool} {opnd : Word} {s : State} {b : Nat}

theorem VdcByte.lt (h : VdcByte sr sm opnd s b) : b < 256 := by
  rcases h with ⟨-, hr, rfl⟩ | ⟨-, -, rfl⟩ | ⟨-, -, rfl⟩
  · exact Nat.mod_lt _ (by decide)
  · exact BitVec.isLt _
  · exact Nat.mod_lt _ (by decide)

theorem lowByte_eq_ofNat (v : Word) : v.extractLsb' 0 8 = BitVec.ofNat 8 (v.toNat % 256) :=
  BitVec.eq_of_toNat_eq (by simp)

theorem VdcByte.srcByte_eq (h : VdcByte sr sm opnd s b) : srcByte sr sm opnd s = some (BitVec.ofNat 8 b) := by
  rcases h with ⟨rfl, hr, rfl⟩ | ⟨rfl, rfl, rfl⟩ | ⟨rfl, rfl, rfl⟩
  · simp [srcByte, regIndex_of_lt hr, lowByte_eq_ofNat]
  · simp [srcByte]
  · simp [srcByte, lowByte_eq_ofNat]

theorem srcByte_of_badRegister (h : sr = true ∧ 15 < opnd.toNat) : srcByte sr sm opnd s = none := by
  simp [srcByte, h.1, regIndex_of_gt h.2]

end

/-! ## Clear (spec/46_vdc.md R167) -/

/-- Settles O33: `Clear()` is one fill of the mode's cells. -/
theorem clearBlanksExactlyTheModesCells : Obligations.ClearBlanksExactlyTheModesCells := by
  refine fun s => ⟨fun h rows hm => ?text, fun hv => ?pixel⟩
  case text =>
    rw [clear_text hm]
    exact ⟨rfl, readCell_fillCells s.mem 0xF000 (h * rows) 0x20⟩
  case pixel =>
    rw [clear_pixel hv]
    exact ⟨rfl, fun a ha => (readCell_fillCells s.pix 0 307200 0 a).trans (if_pos ⟨a.zero_le, by omega⟩)⟩

/-! ## dimd (spec/46_vdc.md R165) -/

section
variable {sr sm : Bool} {opnd : Word} {s : State}

theorem vdcDimd_of_mode {b : Byte} {v : VMode} (hb : srcByte sr sm opnd s = some b)
    (hv : VMode.ofCode s.platform.hasPixel b = some v) :
    vdcDimd sr sm opnd s = ({ s with vmode := v } : State).clear := by simp only [vdcDimd, hb, hv]

theorem vdcDimd_of_badMode {b : Byte} (hb : srcByte sr sm opnd s = some b)
    (hv : VMode.ofCode s.platform.hasPixel b = none) : vdcDimd sr sm opnd s = s.raiseVdc := by
  simp only [vdcDimd, hb, hv]

theorem vdcDimd_of_badSource (hb : srcByte sr sm opnd s = none) : vdcDimd sr sm opnd s = s.raiseVdc := by
  simp only [vdcDimd, hb]

end

/-- Settles O34: the source byte names a mode, or none, or there is no source byte. -/
theorem dimdSetsModeAndClears : Obligations.DimdSetsModeAndClears := by
  refine ⟨fun w ho => decode_of_opcode (i := .dimd (wordSR w) (wordSM w) (wordOpnd w)) ho,
    fun sr sm opnd s => ⟨fun b v hb hv => ?valid, fun b hb hv => ?invalid, fun hsr hr => ?badRegister⟩⟩ <;>
    refine congrArg Host.Outcome.next ?_
  case valid => exact vdcDimd_of_mode hb.srcByte_eq ((VMode.ofCode_eq_some_iff _ hb.lt v).2 hv)
  case invalid => exact vdcDimd_of_badMode hb.srcByte_eq (VMode.ofCode_eq_none hb.lt hv)
  case badRegister => exact vdcDimd_of_badSource (srcByte_of_badRegister ⟨hsr, hr⟩)

/-! ## diclr and diwtrt (spec/46_vdc.md R168, R169) -/

/-- Settles O35: `diclr` is one test of the mode. -/
theorem diclrClearsTheScreen : Obligations.DiclrClearsTheScreen :=
  ⟨fun _ ho => decode_of_opcode (i := .diclr) ho,
    fun _ => ⟨fun hv => congrArg Host.Outcome.next (if_pos hv), fun hv => congrArg Host.Outcome.next (if_neg hv)⟩⟩

theorem vdcDiwtrt_of_off {s : State} (hv : s.vmode = .off) : vdcDiwtrt s = s.raiseVdc := if_pos hv

theorem vdcDiwtrt_of_enabled {s : State} (hv : s.vmode ≠ .off) : vdcDiwtrt s = s := if_neg hv

/-- Settles O36: the three cases of the VDC's step with this word at the head. -/
theorem diwtrtWaitsForRetrace : Obligations.DiwtrtWaitsForRetrace := by
  have hdecode : ∀ w : DWord, wordOpc w = 0x12 → decode w = .ok .diwtrt := fun w ho =>
    decode_of_opcode (i := .diwtrt) ho
  refine ⟨hdecode, fun s w rest hhold hpanic hturn hq ho => ?_⟩
  obtain ⟨hheld, hpopped⟩ :=
    (vdcPopsOldestWordUnlessHeld s hhold hpanic hturn).2 w rest .diwtrt hq (hdecode w ho)
  refine ⟨fun hv => ?disabled, fun hv hw => hheld ⟨rfl, hv, hw⟩, fun hv hw => ?popped⟩
  case disabled =>
    rw [hpopped fun h => h.2.1 hv]
    exact congrArg Host.Outcome.next (vdcDiwtrt_of_off hv)
  case popped =>
    rw [hpopped fun h => by simp [hw] at h]
    exact congrArg Host.Outcome.next (vdcDiwtrt_of_enabled hv)

/-! ## disetxy (spec/46_vdc.md R170) -/

section
variable {rx : RegId} {ry : Word} {s : State}

theorem vdcDisetxy_of_off (hv : s.vmode = .off) : vdcDisetxy rx ry s = s.raiseVdc := if_pos hv

theorem vdcDisetxy_of_badRegister (hr : 15 < ry.toNat) : vdcDisetxy rx ry s = s.raiseVdc := by
  simp [vdcDisetxy, regIndex_of_gt hr]

theorem vdcDisetxy_of_registers (hv : s.vmode ≠ .off) (hr : ry.toNat < 16) :
    vdcDisetxy rx ry s =
      if s.vmode.contains (s.reg rx) (s.reg ⟨ry.toNat, hr⟩) = true then
        { s with cx := s.reg rx, cy := s.reg ⟨ry.toNat, hr⟩ }
      else s.raiseVdc := by
  simp only [vdcDisetxy, if_neg hv, regIndex_of_lt hr]

end

/-- Settles O37: with the adapter enabled and both registers there, the mode's check of the coordinates decides. -/
theorem disetxySetsCursorInBounds : Obligations.DisetxySetsCursorInBounds := by
  refine ⟨fun w ho => decode_of_opcode (i := .disetxy (wordRd w) (wordOpnd w)) ho,
    fun rx ry s => ⟨fun hv => congrArg Host.Outcome.next (vdcDisetxy_of_off hv),
      fun hr => congrArg Host.Outcome.next (vdcDisetxy_of_badRegister hr), fun h rows hr hm => ?_⟩⟩
  have hset := vdcDisetxy_of_registers (rx := rx) hm.ne_off hr
  exact ⟨fun hin => congrArg Host.Outcome.next (hset.trans (if_pos ((hm.contains_iff _ _).2 hin))),
    fun hout => congrArg Host.Outcome.next (hset.trans (if_neg (hm.not_contains hout)))⟩

/-! ## dichar and diputpixel (spec/46_vdc.md R172, R174) -/

section
variable {sr sm : Bool} {opnd : Word} {s : State} {b : Byte}

theorem vdcDichar_of_text {h rows : Nat} (hb : srcByte sr sm opnd s = some b) (hm : TextMode s.vmode h rows)
    (hx : s.cx.toNat < h) (hy : s.cy.toNat < rows) :
    vdcDichar sr sm opnd s = s.writeBytes (0xF000 + (s.cy.toNat * h + s.cx.toNat)) [b] := by
  have hsize : ModeSize s.vmode h rows := .inl hm
  have hcell : s.cursorCell = s.cy.toNat * h + s.cx.toNat := by rw [State.cursorCell, hsize.eq.1]
  simp only [vdcDichar, if_neg hsize.ne_off, hb, if_neg hm.ne_pixel, if_pos ((hsize.contains_iff _ _).2 ⟨hx, hy⟩), hcell]

/-- The checks of `dichar`: the first that fails raises, and the raise is the same for all. -/
theorem vdcDichar_of_failedCheck
    (hfail : s.vmode = .off ∨ s.vmode = .pixel ∨ srcByte sr sm opnd s = none ∨ ¬s.vmode.contains s.cx s.cy = true) :
    vdcDichar sr sm opnd s = s.raiseVdc := by
  unfold vdcDichar
  split
  · rfl
  · split
    · rfl
    · split
      · rfl
      · rename_i hoff _ _ hb hpixel
        exact if_neg fun hin => by simp [hoff, hpixel, hb, hin] at hfail

theorem vdcDiputpixel_of_pixel (hb : srcByte sr sm opnd s = some b) (hv : s.vmode = .pixel) (hx : s.cx.toNat < 640)
    (hy : s.cy.toNat < 480) :
    vdcDiputpixel sr sm opnd s = { s with pix := blit s.pix (s.cy.toNat * 640 + s.cx.toNat) [b] } := by
  have hin : VMode.contains .pixel s.cx s.cy = true := (modeSize_pixel.contains_iff _ _).2 ⟨hx, hy⟩
  have hcell : s.cursorCell = s.cy.toNat * 640 + s.cx.toNat := by rw [State.cursorCell, hv, modeSize_pixel.eq.1]
  simp [vdcDiputpixel, hv, hb, hin, hcell]

/-- The checks of `diputpixel`: the first that fails raises, and the raise is the same for all. -/
theorem vdcDiputpixel_of_failedCheck
    (hfail : s.vmode ≠ .pixel ∨ srcByte sr sm opnd s = none ∨ ¬s.vmode.contains s.cx s.cy = true) :
    vdcDiputpixel sr sm opnd s = s.raiseVdc := by
  unfold vdcDiputpixel
  split
  · rfl
  · split
    · rfl
    · split
      · rename_i _ _ _ hb hpixel
        exact if_neg fun hin => hfail.elim (· hpixel) fun h => h.elim (by simp [hb]) (· hin)
      · rfl

end

/-- A store of one byte is read back at its address and nowhere else. -/
theorem readCell_blit_single (m : List Host.Cell) (i : Nat) (b : Byte) (a : Nat) :
    readCell (blit m i [b]) a = if a = i then b else readCell m a := by
  rw [readCell_blit]
  by_cases h : a = i
  · simp [h]
  · rw [if_neg h, dif_neg (by simp only [List.length_singleton]; omega)]

/-- Settles O38: the cursor names a cell inside the mode and so inside the framebuffer, or a check fails. -/
theorem dicharWritesTheCursorCell : Obligations.DicharWritesTheCursorCell := by
  refine ⟨fun w ho => decode_of_opcode (i := .dichar (wordSR w) (wordSM w) (wordOpnd w)) ho,
    fun sr sm opnd s => ⟨fun b h rows hb hm hx hy => ?written, fun hfault => ?fault⟩⟩
  case written => exact ⟨cell_lt hx hy, congrArg Host.Outcome.next (vdcDichar_of_text hb.srcByte_eq hm hx hy)⟩
  case fault =>
    refine congrArg Host.Outcome.next (vdcDichar_of_failedCheck ?_)
    rcases hfault with hoff | hpixel | hreg | ⟨h, rows, hm, hout⟩
    · exact .inl hoff
    · exact .inr (.inl hpixel)
    · exact .inr (.inr (.inl (srcByte_of_badRegister hreg)))
    · exact .inr (.inr (.inr (ModeSize.not_contains (.inl hm) hout)))

/-- Settles O39: the cursor names a pixel, which is one byte of `PIX`, or a check fails. -/
theorem diputpixelWritesTheCursorPixel : Obligations.DiputpixelWritesTheCursorPixel := by
  refine ⟨fun w ho => decode_of_opcode (i := .diputpixel (wordSR w) (wordSM w) (wordOpnd w)) ho,
    fun sr sm opnd s => ⟨fun b hb hv hx hy => ?written, fun hfault => ?fault⟩⟩
  case written =>
    refine ⟨_, congrArg Host.Outcome.next (vdcDiputpixel_of_pixel hb.srcByte_eq hv hx hy), rfl, ?_, fun a ha => ?_⟩
    · exact (readCell_blit_single _ _ _ _).trans (if_pos rfl)
    · exact (readCell_blit_single _ _ _ _).trans (if_neg ha)
  case fault =>
    refine congrArg Host.Outcome.next (vdcDiputpixel_of_failedCheck ?_)
    by_cases hv : s.vmode = .pixel
    · rcases hfault with hne | hreg | hout
      · exact absurd hv hne
      · exact .inr (.inl (srcByte_of_badRegister hreg))
      · exact .inr (.inr (ModeSize.not_contains (hv ▸ modeSize_pixel) hout))
    · exact .inl hv

/-! ## All that the VDC may write (spec/46_vdc.md R160, R176) -/

theorem State.clear_frame (s : State) : s.clear = { s with mem := s.clear.mem, pix := s.clear.pix } := by
  unfold State.clear
  split <;> rfl

/-- `Clear()` stays inside the 2000 bytes of the largest text mode. -/
theorem State.clear_sameBytesOutside (s : State) : s.sameBytesOutside s.clear 0xF000 2000 := by
  intro a ha
  have outside (n : Nat) (hn : n ≤ 2000) (v : Byte) :
      readCell (fillCells s.mem Config.fbStart n v) a = readCell s.mem a := by
    rw [readCell_fillCells, if_neg (by simp only [Config.fbStart]; omega)]
  unfold State.clear
  split
  · rfl
  · exact outside _ (by decide) _
  · exact outside _ (by decide) _
  · rfl

section
variable {s t : State}

theorem VdcEffect.frame (h : VdcEffect s t) :
    t = { s with vmode := t.vmode, cx := t.cx, cy := t.cy, vdcExc := t.vdcExc, mem := t.mem, pix := t.pix } := by
  cases h with
  | mode v => rw [State.clear_frame]
  | clear => rw [State.clear_frame]
  | _ => rfl

theorem VdcEffect.sameBytesOutside (h : VdcEffect s t) : s.sameBytesOutside t 0xF000 2000 := by
  cases h with
  | mode v => exact State.clear_sameBytesOutside _
  | clear => exact s.clear_sameBytesOutside
  | glyph i hi b => exact fun a ha => s.writeByte_outside b (by omega)
  | _ => exact fun _ _ => rfl

end

/-- Settles O40: a turn of the VDC is idle, or pops a word and has one of the VDC's effects. -/
theorem vdcWritesOnlyItsOwnState : Obligations.VdcWritesOnlyItsOwnState := by
  intro s t hturn h
  have effect : TurnEffect s.dropTurn .vdc t := hturn ▸ step_inv h
  cases effect with
  | idle => exact ⟨{ State.SameCpu.refl s with }, fun _ _ => rfl, rfl, .inl rfl⟩
  | vdc _ w rest hq effect =>
    have hrest : t.q = rest := effect.queue
    exact ⟨{ effect.sameCpu with }, effect.sameBytesOutside, hrest ▸ effect.frame, .inr ⟨w, hrest ▸ hq⟩⟩

end Sys2Proof.Machine

/-! PROOFS. The HOST: what follows the end of a run, and the faults it enters in `ext_exc`. -/

namespace Sys2Proof.Machine

/-! ## The end of a run (spec/70_reset_and_hazards.md R236) -/

/-- The test of one bit of a mask is the test of a flag of `cr`. -/
theorem decide_and_twoPow_ne_zero (x : Byte) {k : Nat} (hk : k < 8) :
    decide (x &&& BitVec.twoPow 8 k ≠ 0) = x.getLsbD k :=
  State.hasFlag_twoPow { State.reset with cr := x } hk

section
variable {s : State}

theorem State.allStopped_iff : s.allStopped = true ↔
    s.panic = true ∧ s.resetHold = false ∧ s.retrace = false ∧ s.ioinHigh = none ∧ s.iooutLow = none := by
  simp [State.allStopped, and_assoc]

theorem State.stopsForGood_iff : s.stopsForGood = true ↔ s.exc = 0 ∨ s.exc.getLsbD 6 = true := by
  have hbit : decide (s.exc &&& ExcKind.shutdown.bit ≠ 0) = s.exc.getLsbD 6 :=
    decide_and_twoPow_ne_zero s.exc (k := 6) (by decide)
  rw [State.stopsForGood, hbit, Bool.or_eq_true, decide_eq_true_iff]

theorem endOfRunTurn_stops (ha : s.allStopped = true) (he : s.exc = 0 ∨ s.exc.getLsbD 6 = true) :
    endOfRunTurn s = .fault .finalStop := by
  rw [endOfRunTurn, if_pos ha, if_pos (State.stopsForGood_iff.2 he)]

theorem endOfRunTurn_reboots (ha : s.allStopped = true) (he : s.exc ≠ 0) (hshut : s.exc.getLsbD 6 = false)
    (hp : s.platform.ok = true) : endOfRunTurn s = .next s.resetProcedure := by
  have hgoes : ¬s.stopsForGood = true :=
    fun h => (State.stopsForGood_iff.1 h).elim he (Bool.eq_false_iff.1 hshut)
  rw [endOfRunTurn, if_pos ha, if_neg hgoes, if_pos hp]

end

/-- Settles O47: the HOST finds every agent stopped, and the fault mask alone decides between the stop and the reset. -/
theorem endOfRunStopsOrReboots : Obligations.EndOfRunStopsOrReboots := by
  intro s hturn hpanic hhold hretrace hin hout
  have ha : s.dropTurn.allStopped = true := State.allStopped_iff.2 ⟨hpanic, hhold, hretrace, hin, hout⟩
  exact ⟨fun he => (step_eq hturn).trans (endOfRunTurn_stops ha he),
    fun he hshut hp => (step_eq hturn).trans (endOfRunTurn_reboots ha he hshut hp)⟩

/-! ## The soft reboot with nothing scheduled (spec/70_reset_and_hazards.md R230, R234, R236) -/

/-- With nothing scheduled the turn after a run is the HOST's once every agent has stopped (assumption 1). -/
theorem nextTurn_endOfRun {s : State} (hs : s.sched = []) (ha : s.allStopped = true) : s.nextTurn = .endOfRun := by
  obtain ⟨hpanic, hhold, hretrace, hin, hout⟩ := State.allStopped_iff.1 ha
  simp [State.nextTurn, hs, State.defaultTurn, hhold, hpanic, hretrace, hin, hout]

/-- With nothing scheduled the turn behind the reset barrier is the HOST's release (assumption 1). -/
theorem nextTurn_release {s : State} (hs : s.sched = []) (hhold : s.resetHold = true) : s.nextTurn = .release := by
  simp [State.nextTurn, hs, State.defaultTurn, hhold]

theorem run_succ_fault {s : State} {f : Fault} (h : step s = .fault f) (k : Nat) :
    Host.Core.run Sys2Proof.core (k + 1) s = .fault f := by
  have hcore : Sys2Proof.core.step s = .fault f := h
  simp only [Host.Core.run, hcore]

theorem State.dropTurn_of_nothing_scheduled {s : State} (hs : s.sched = []) : s.dropTurn = s := by
  have htail : s.sched.tail = s.sched := by rw [hs, List.tail_nil]
  rw [State.dropTurn, htail]

theorem State.released_of_nothing_scheduled {s : State} (hs : s.sched = []) : s.released = { s with resetHold := false } :=
  congrArg (fun u : State => { u with resetHold := false }) (State.dropTurn_of_nothing_scheduled hs)

/-- Settles O60: the end of the run resets and the next turn is the release; a shutdown stops the first step and so every
run. -/
theorem programFaultReboots : Obligations.ProgramFaultReboots := by
  intro s hs hpanic hhold hretrace hin hout hp
  have hturn : s.nextTurn = .endOfRun :=
    nextTurn_endOfRun hs (State.allStopped_iff.2 ⟨hpanic, hhold, hretrace, hin, hout⟩)
  obtain ⟨stops, reboots⟩ := endOfRunStopsOrReboots s hturn hpanic hhold hretrace hin hout
  refine ⟨fun he => ?_, fun hshut k => run_succ_fault (stops (.inr hshut)) k⟩
  have hreset : step s = .next s.dropTurn.resetProcedure := reboots (by simp [he]) (by simp [he]) hp
  rw [State.dropTurn_of_nothing_scheduled hs] at hreset
  have hrelease : step s.resetProcedure = .next s.resetProcedure.released := step_release (nextTurn_release hs rfl)
  calc Host.Core.run Sys2Proof.core 2 s
      = Host.Core.run Sys2Proof.core 1 s.resetProcedure := run_succ hreset 1
    _ = .next s.resetProcedure.released := run_succ hrelease 0
    _ = .next { s.resetProcedure with resetHold := false } :=
      congrArg Host.Outcome.next (State.released_of_nothing_scheduled hs)

/-! ## The HOST's faults (spec/60_exceptions.md R206, 70_reset_and_hazards.md R238) -/

theorem shutdownTurn_enabled {s : State} (hhold : s.resetHold = false) :
    shutdownTurn s = .next (s.raiseExt .shutdown) := by
  simp [shutdownTurn, hhold]

/-- An image is rejected when its magic is wrong or its code does not fit the program region. -/
theorem validBody_eq_none {magic m size : DWord} {image : List Byte} (hmagic : headerWord image 0 = some m)
    (hsize : headerWord image 12 = some size) (hbad : m ≠ magic ∨ 49152 < size.toNat) : validBody magic image = none := by
  simp only [validBody, hmagic, hsize]
  exact if_neg fun ⟨heq, hcap, _⟩ => hbad.elim (· heq) (Nat.not_lt.2 hcap)

/-- The size stands after the magic and the eight reserved bytes. -/
theorem headerWord_size {m0 m1 m2 m3 z0 z1 z2 z3 : Byte} {reserved body : List Byte} (hres : reserved.length = 8) :
    headerWord (m0 :: m1 :: m2 :: m3 :: reserved ++ z0 :: z1 :: z2 :: z3 :: body) 12 = some (wordOfBytes z0 z1 z2 z3) :=
  headerWord_eq (List.drop_left' (by simp [hres]))

theorem loadOpenTurn_rejects {s : State} (hr : s.running = true) (hl : s.load = none) {image : List Byte}
    (hb : validBody s.platform.prgMagic image = none) : loadOpenTurn image s = .next (s.raiseExt .prg) := by
  simp [loadOpenTurn, hr, hl, hb, State.beginLoad]

/-- Settles O48: the signal asks only for the barrier, and a bad header word makes the loader reject the image. -/
theorem hostFaultsEnterExtExc : Obligations.HostFaultsEnterExtExc := by
  constructor
  case left =>
    intro s hhold hturn
    exact (step_eq hturn).trans (shutdownTurn_enabled (s := s.dropTurn) hhold)
  case right =>
    intro s _ _ _ _ _ _ _ _ _ _ hres hhold hpanic hl hturn hbad
    exact (step_eq hturn).trans (loadOpenTurn_rejects (s := s.dropTurn) (dropTurn_runs hhold hpanic) hl
      (validBody_eq_none (headerWord_eq rfl) (headerWord_size hres) hbad))

end Sys2Proof.Machine
